-- ==== Sys2Proof/Word.lean ====
section
/-! DEFINITION. The widths of 00_scope.md R7: bytes, 32-bit datapath words, and the 256-entry byte arrays that hold
the substitution tables and the seed buffer. -/

namespace Sys2Proof

/-- A byte: an entry of a table or of the seed buffer (R7, R71). -/
abbrev Byte := BitVec 8

/-- A datapath word (R7): "Every datapath word is 32 bits". Unsigned throughout (R13). -/
abbrev Word := BitVec 32

/-- An array of 256 bytes: a substitution table (R53) or the seed buffer (R52). -/
abbrev Bytes256 := Vector Byte 256

end Sys2Proof
end

