-- ==== Sys2Proof/Config.lean ====
section
/-! DEFINITION. What is fixed for the machine: the numeric parameters of 00_scope.md R8 at the spec's values, the
identification constant (R45), and the one free value of the spec, the word an unspecified read returns (R292). -/

namespace Sys2Proof.Config

/-- `ROUNDS_MIN` (R8). -/
def roundsMin : Nat := 1

/-- `ROUNDS_MAX` (R8). -/
def roundsMax : Nat := 44

/-- `ROUNDS_DEFAULT` (R8): the reset value of `ROUNDS` (R43). -/
def roundsDefault : Nat := 7

/-- `FAST_PERIOD` (R8): blocks between two agings of table 1. -/
def fastPeriod : Nat := 2000

/-- `SLOW_PERIOD` (R8): blocks between two agings of table 2. -/
def slowPeriod : Nat := 4000000

/-- `LFSR_SEED` (R8, R173): the 44 bits the sequence register starts each block with. -/
def lfsrSeed : BitVec 44 := 0x938BCA3083F

/-- `ROT_A` (R8, R170). -/
def rotA : Nat := 5

/-- `ROT_B` (R8, R170). -/
def rotB : Nat := 1

/-- `SEED_LEN_MIN` (R8). -/
def seedLenMin : Nat := 1

/-- `SEED_LEN_MAX` (R8). -/
def seedLenMax : Nat := 256

/-- `CONST_INIT` (R8, R174): the value the constant register starts each block with. -/
def constInit : Word := 0xFFFFFFFC

/-- The constant of the `ID` register (R45). -/
def idValue : Word := 0x534D4B52

/-- FREE VALUE (log entry 3). The word a read returns that R292 leaves unspecified while `BUSY` = 1; the argument counts
such reads, since the value "need not repeat". It has no body: a claim that holds, holds for every such word. -/
opaque busyRead : Nat → Word

end Sys2Proof.Config
end

