-- ==== Sys2Proof/Syntax.lean ====
section
/-! DEFINITION. The commands of spec/opcode_table.json, one constructor a row. The arguments are the numbers the
fields hold: "unsigned integers taken as they stand" (30_encoding.md R102). -/

namespace Sys2Proof

/-- A command of the core (30_encoding.md R104). -/
inductive Instr where
  /-- `NOP` (R230). -/
  | nop
  /-- `SOFT_RESET` (R231). -/
  | softReset
  /-- `CLEAR_ERR` (R232). -/
  | clearErr
  /-- `SET_ROUNDS n` (R131). -/
  | setRounds (n : Nat)
  /-- `LOAD_KEY` (R132). -/
  | loadKey
  /-- `LOAD_SEED w` (R133), `w` the seed word index. -/
  | loadSeed (w : Nat)
  /-- `PERM_GEN t, L` (R152), `t` the table selector and `len` the seed length. -/
  | permGen (t len : Nat)
  /-- `ENCRYPT_BLOCK` (R200). -/
  | encryptBlock
  deriving DecidableEq, Repr

end Sys2Proof
end

