-- ==== Sys2Proof/WellFormed.lean ====
section
/-! DEFINITION. Which commands an assembler accepts (30_encoding.md R108): each argument fits its field. Whether it
is in the command's range is no matter of form; the core checks that at issue (R105). -/

namespace Sys2Proof

/-- R108: "An assembler accepts any value that fits its field and rejects one that does not fit". `A` has 8 bits and
`B` has 9 (R101). -/
def Instr.wellFormed : Instr → Bool
  | .nop => true
  | .softReset => true
  | .clearErr => true
  | .setRounds n => decide (n < 2 ^ 8)
  | .loadKey => true
  | .loadSeed w => decide (w < 2 ^ 8)
  | .permGen t len => decide (t < 2 ^ 8) && decide (len < 2 ^ 9)
  | .encryptBlock => true

end Sys2Proof
end

