-- ==== Sys2Proof/Decode.lean ====
section
/-! DEFINITION. 30_encoding.md: the fields of a command word, the opcode map, `Decode`, and the encoder. -/

namespace Sys2Proof

/-- `OP` = `w[7:0]` (R101). -/
def opField (w : Word) : Byte := w.extractLsb' 0 8

/-- `A` = `w[15:8]` as a number (R101, R102). -/
def argA (w : Word) : Nat := (w.extractLsb' 8 8).toNat

/-- `B` = `w[24:16]` as a number (R101, R102). -/
def argB (w : Word) : Nat := (w.extractLsb' 16 9).toNat

/-- `RSV` = `w[31:25]` (R101). -/
def rsvField (w : Word) : BitVec 7 := w.extractLsb' 25 7

/-- The mnemonics of R104, without their arguments. -/
inductive Mnemonic where
  | nop | softReset | clearErr | setRounds | loadKey | loadSeed | permGen | encryptBlock
  deriving DecidableEq, Repr

/-- A row of the opcode map (R104). -/
structure OpcodeRow where
  /-- the mnemonic column -/
  name : Mnemonic
  /-- the match column -/
  bits : Word
  /-- the mask column -/
  mask : Word
  deriving DecidableEq, Repr

/-- The opcode map of R104. -/
def opcodeMap : List OpcodeRow :=
  [ ⟨.nop,          0x00000000, 0xFFFFFFFF⟩,
    ⟨.softReset,    0x00000001, 0xFFFFFFFF⟩,
    ⟨.clearErr,     0x00000002, 0xFFFFFFFF⟩,
    ⟨.setRounds,    0x00000010, 0xFFFF00FF⟩,
    ⟨.loadKey,      0x00000011, 0xFFFFFFFF⟩,
    ⟨.loadSeed,     0x00000012, 0xFFFF00FF⟩,
    ⟨.permGen,      0x00000013, 0xFE0000FF⟩,
    ⟨.encryptBlock, 0x00000020, 0xFFFFFFFF⟩ ]

/-- R105: a word matches a row when its masked bits are the row's. -/
def OpcodeRow.matchesWord (r : OpcodeRow) (w : Word) : Bool := w &&& r.mask == r.bits

/-- The command a matching word stands for, its arguments read from the fields (R102). -/
def Mnemonic.instr (m : Mnemonic) (w : Word) : Instr :=
  match m with
  | .nop => .nop
  | .softReset => .softReset
  | .clearErr => .clearErr
  | .setRounds => .setRounds (argA w)
  | .loadKey => .loadKey
  | .loadSeed => .loadSeed (argA w)
  | .permGen => .permGen (argA w) (argB w)
  | .encryptBlock => .encryptBlock

/-- `Decode` (R105), total on all words; `none` is the rule's `ILLEGAL` (R106). -/
def decode (w : Word) : Option Instr :=
  (opcodeMap.find? (·.matchesWord w)).map (·.name.instr w)

/-- The word `{RSV, B, A, OP}` with `RSV` = 0 (R101). -/
def pack (op : Byte) (a b : Nat) : Word :=
  0#7 ++ BitVec.ofNat 9 b ++ BitVec.ofNat 8 a ++ op

/-- The opcode of a command (R104). -/
def Instr.opcode : Instr → Byte
  | .nop => 0x00
  | .softReset => 0x01
  | .clearErr => 0x02
  | .setRounds _ => 0x10
  | .loadKey => 0x11
  | .loadSeed _ => 0x12
  | .permGen _ _ => 0x13
  | .encryptBlock => 0x20

/-- What a command puts into `A`; a field it does not use is 0 (R104). -/
def Instr.fieldA : Instr → Nat
  | .nop => 0
  | .softReset => 0
  | .clearErr => 0
  | .setRounds n => n
  | .loadKey => 0
  | .loadSeed w => w
  | .permGen t _ => t
  | .encryptBlock => 0

/-- What a command puts into `B`; a field it does not use is 0 (R104). -/
def Instr.fieldB : Instr → Nat
  | .nop => 0
  | .softReset => 0
  | .clearErr => 0
  | .setRounds _ => 0
  | .loadKey => 0
  | .loadSeed _ => 0
  | .permGen _ len => len
  | .encryptBlock => 0

/-- The command word of a command (R101, R104, R108). -/
def encode (i : Instr) : Word := pack i.opcode i.fieldA i.fieldB

/-- What the decoder reads from an instruction whose bits are `w`, numbered as the opcode table numbers them. A command
is one 32-bit word (R100), so bits above `nbits` are 0. -/
def decodeTableWord (nbits w : Nat) : Option Instr := decode (BitVec.ofNat 32 (w % 2 ^ nbits))

end Sys2Proof
end

