-- ==== Sys2Proof/Machine/State.lean ====
section
/-! DEFINITION. 10_state.md as plain data: the core's session and interface state, the host's side, and the reset
state of R58. Two constants of the register map, `CTR_HI` (R48) and `ID` (R45), and the computed `READY` (R41) have no
storage. -/

namespace Sys2Proof.Machine

/-- The error codes that are recorded (60_exceptions.md R251). Code 0 is "no error recorded" and 8 to 15 are never
written. -/
inductive ErrorCode where
  /-- 1 `E_ILLEGAL`: the word decodes to no command. -/
  | illegal
  /-- 2 `E_ROUNDS`: round count outside 1 to 44. -/
  | rounds
  /-- 3 `E_SEEDLEN`: seed length 0 or above 256. -/
  | seedLen
  /-- 4 `E_ARG`: table selector not 1, 2 or 3, or seed word index above 63. -/
  | arg
  /-- 5 `E_LOCKED`: a setup command in the RUNNING phase. -/
  | locked
  /-- 6 `E_NOT_READY`: `ENCRYPT_BLOCK` while `READY` = 0. -/
  | notReady
  /-- 7 `E_BUSY`: `CMD` written while `BUSY` = 1. -/
  | busy
  deriving DecidableEq, Repr

/-- The error record: `STATUS.ERRCODE` and `ERRCMD` while `STATUS.ERR` = 1 (R37, R42). -/
structure ErrorRecord where
  /-- `ERRCODE` -/
  code : ErrorCode
  /-- `ERRCMD` -/
  cmd : Word
  deriving DecidableEq, Repr

/-- Four words: `KR[0..3]` (R51), `DIN0..DIN3` (R44), `LDIN0..LDIN3` (R55). -/
structure Quad where
  w0 : Word
  w1 : Word
  w2 : Word
  w3 : Word
  deriving DecidableEq, Repr

/-- The issue latch while it holds a command (R55). -/
structure Latch where
  /-- `LCMD` -/
  cmd : Word
  /-- `LDIN0..LDIN3`, the values of `DIN0..DIN3` at the `CMD` write -/
  din : Quad
  deriving DecidableEq, Repr

/-- The core's architectural state (R30). -/
structure CoreState where
  /-- The issue latch (R55). `STATUS.BUSY` is 1 exactly while it holds a command (R36). -/
  latch : Option Latch
  /-- The error record; `STATUS.ERR` is 1 exactly while there is one (R37, R42). -/
  error : Option ErrorRecord
  /-- `STATUS.KEYV` (R38). -/
  keyV : Bool
  /-- `STATUS.T1V` (R39). -/
  t1V : Bool
  /-- `STATUS.T2V` (R39). -/
  t2V : Bool
  /-- `STATUS.T3V` (R39). -/
  t3V : Bool
  /-- `STATUS.RUN`: false is SETUP, true is RUNNING (R40). -/
  run : Bool
  /-- `ROUNDS`, "Bits [5:0] hold the count" (R43). -/
  rounds : BitVec 6
  /-- `DIN0..DIN3` (R44). -/
  din : Quad
  /-- `DOUT0` (R46). -/
  dout0 : Word
  /-- `DOUT1` (R46). -/
  dout1 : Word
  /-- `CTR_LO` (R47). -/
  ctrLo : Word
  /-- `FAST_EPOCH` (R49). -/
  fastEpoch : Word
  /-- `SLOW_EPOCH` (R50). -/
  slowEpoch : Word
  /-- `KR[0..3]` (R51). -/
  kr : Quad
  /-- `SEED[0..255]` (R52). -/
  seed : Bytes256
  /-- `T1`, the active substitution table (R53). -/
  t1 : Bytes256
  /-- `T2` (R53). -/
  t2 : Bytes256
  /-- `T3` (R53). -/
  t3 : Bytes256
  deriving DecidableEq, Repr

/-- What a bus access asks for (R301): `BUS_RE`, `BUS_WE`, or both at once, which is outside the contract. -/
inductive AccessKind where
  | read
  | write
  | readWrite
  deriving DecidableEq, Repr

/-- How wide an access is; only whole words are in the contract (R73). -/
inductive AccessWidth where
  | byte
  | half
  | word
  deriving DecidableEq, Repr

/-- One access of the host (R72, R301): a 12-bit byte address (R10) and, for a write, the data. -/
structure Access where
  kind : AccessKind
  width : AccessWidth
  addr : BitVec 12
  /-- `BUS_WDATA`; a read ignores it -/
  data : Word
  deriving DecidableEq, Repr

/-- What happens next, one step each (R22, R86, R303). -/
inductive Event where
  /-- The host makes an access. -/
  | access (a : Access)
  /-- A clock edge with `RST` = 1 (R280, R302), and the access the host makes in that cycle, if any. -/
  | rst (during : Option Access)
  /-- The core's turn: it performs the latched command, if there is one (R21, R22). -/
  | perform
  deriving DecidableEq, Repr

/-- The host's side (log entries 1 and 2). No reset of the core changes it. -/
structure Environment where
  /-- What is still to happen, the next first. -/
  events : List Event
  /-- The words the host's reads returned, the latest first: it "notes the value" (R109). -/
  noted : List Word
  deriving DecidableEq, Repr

/-- The whole state: the core, the host's side, and the count of unspecified reads answered so far (log entry 3). -/
structure State where
  core : CoreState
  env : Environment
  draws : Nat
  deriving DecidableEq, Repr

/-- Why the machine stops. The core itself has no failure (R269). -/
inductive Fault where
  /-- Raised by the core's turn when the latch holds a word that is no command. Safe: no word is latched before it
  decoded (R256), so no run reaches it (log entry 5). -/
  | latchNotACommand
  deriving DecidableEq, Repr

/-- Why a step has no meaning: accesses "outside the interface contract", for which the spec has no step. All safe: no
claim about such an access can be proved (log entry 6). -/
inductive Refusal where
  /-- An arm of `exec` whose instruction has no meaning yet; no arm is such a one. Safe. -/
  | notModelled (mnemonic : String)
  /-- An 8-bit or 16-bit access (R73). Raised by the bus. Safe. -/
  | narrowAccess
  /-- An access whose address is no multiple of 4 (R73). Raised by the bus. Safe. -/
  | misalignedAccess
  /-- `BUS_WE` = `BUS_RE` = 1 (R301). Raised by the bus. Safe. -/
  | readWriteAccess
  /-- An access in a cycle with `RST` = 1 (R282, R302). Raised by the reset event. Safe. -/
  | accessDuringReset
  deriving DecidableEq, Repr

/-- The identity permutation, `T[i] = i` (R53). -/
def identityTable : Bytes256 := ⟨((List.range 256).map (BitVec.ofNat 8)).toArray, by simp⟩

/-- Four words of zero. -/
def Quad.zero : Quad := ⟨0, 0, 0, 0⟩

/-- The core after a reset (R58). -/
def CoreState.reset : CoreState where
  latch := none
  error := none
  keyV := false
  t1V := false
  t2V := false
  t3V := false
  run := false
  rounds := BitVec.ofNat 6 Config.roundsDefault
  din := Quad.zero
  dout0 := 0
  dout1 := 0
  ctrLo := 0
  fastEpoch := 0
  slowEpoch := 0
  kr := Quad.zero
  seed := Vector.replicate 256 0
  t1 := identityTable
  t2 := identityTable
  t3 := identityTable

/-- The machine after a reset (R58, R283), with nothing yet asked of it by the host. -/
def State.reset : State where
  core := CoreState.reset
  env := ⟨[], []⟩
  draws := 0

end Sys2Proof.Machine
end

