-- ==== Sys2Proof/Machine/Ops.lean ====
section
/-! DEFINITION. The named operations over the core's arrays and registers: the byte arrays (20_memory.md R71), the error
record, which is how this hardware takes an error (60_exceptions.md R254), its clearing (R259), the issue latch
(10_state.md R55), and the two phases every command goes through, issue and perform. -/

namespace Sys2Proof.Machine

/-- The outcome of a step of this machine. -/
abbrev Result := Host.Outcome State Fault Refusal

/-- Entry `i` of a table or of the seed buffer (R13, R71). -/
def Bytes256.entry (T : Bytes256) (i : Byte) : Byte := T[i.toNat]'i.isLt

/-- `T[i] <- v` (R16). -/
def Bytes256.put (T : Bytes256) (i v : Byte) : Bytes256 := T.set i.toNat v i.isLt

/-- Swap entries `i` and `j`; both are read before either is written (R150, R16). -/
def Bytes256.exchange (T : Bytes256) (i j : Byte) : Bytes256 :=
  Bytes256.put (Bytes256.put T i (Bytes256.entry T j)) j (Bytes256.entry T i)

/-- Every entry sent through `f`, computed from the old entries. -/
def Bytes256.mapEntries (T : Bytes256) (f : Byte → Byte) : Bytes256 :=
  ⟨(T.toList.map f).toArray, by simp⟩

/-- Entry `k` of a group of four words. -/
def Quad.get (q : Quad) (k : Fin 4) : Word :=
  match k with
  | 0 => q.w0
  | 1 => q.w1
  | 2 => q.w2
  | 3 => q.w3

/-- A group of four words with word `k` replaced. -/
def Quad.put (q : Quad) (k : Fin 4) (v : Word) : Quad :=
  match k with
  | 0 => { q with w0 := v }
  | 1 => { q with w1 := v }
  | 2 => { q with w2 := v }
  | 3 => { q with w3 := v }

/-- TAKING AN ERROR: `Record(code, w)` (R254). "Nothing else changes." -/
def CoreState.record (c : CoreState) (code : ErrorCode) (w : Word) : CoreState :=
  { c with error := some ⟨code, w⟩ }

/-- RETURN FROM AN ERROR: the record is cleared (R232, R259). -/
def CoreState.clearError (c : CoreState) : CoreState := { c with error := none }

/-- The last lines of `Issue` (R256): the word and `DIN0..DIN3` go into the latch, and `BUSY` becomes 1 (R36, R55). -/
def CoreState.latchCommand (c : CoreState) (w : Word) : CoreState :=
  { c with latch := some ⟨w, c.din⟩ }

/-- The end of a perform: `BUSY` falls to 0 (R36, R295). -/
def CoreState.release (c : CoreState) : CoreState := { c with latch := none }

/-- A word whose own issue checks gave `check`: the error is recorded, or the word is latched (R256). -/
def CoreState.issueChecked (c : CoreState) (w : Word) (check : Option ErrorCode) : CoreState :=
  match check with
  | some code => c.record code w
  | none => c.latchCommand w

/-- The same behind the error block: while `ERR` = 1 the word is discarded, "not latched, not performed, and not
recorded" (R255). -/
def CoreState.issueUnlessError (c : CoreState) (w : Word) (check : Option ErrorCode) : CoreState :=
  match c.error with
  | some _ => c
  | none => c.issueChecked w check

/-- A `CMD` write while `BUSY` = 1 (R258): `E_BUSY` if no error is recorded, and the word is dropped. -/
def CoreState.issueWhileBusy (c : CoreState) (w : Word) : CoreState :=
  match c.error with
  | some _ => c
  | none => c.record .busy w

/-- A word that decodes to no command, while `BUSY` = 0 (R106, R255, R256). -/
def CoreState.issueIllegal (c : CoreState) (w : Word) : CoreState :=
  c.issueUnlessError w (some .illegal)

/-- THE TWO PHASES OF A COMMAND. With an empty latch the command is being issued (R256); with a full one it is the
latched command, and the core performs it in one indivisible step, at whose end `BUSY` falls to 0 (R295). The perform
reads its operands from the latch (R55). It never fails (R269). -/
def runCommand (issue : CoreState → CoreState) (perform : Latch → CoreState → CoreState) (s : State) : Result :=
  match s.core.latch with
  | none => .next { s with core := issue s.core }
  | some l => .next { s with core := (perform l s.core).release }

end Sys2Proof.Machine
end

