-- ==== Sys2Proof/Machine/Operands.lean ====
section
/-! DEFINITION. The operand forms: byte lanes and their packing (00_scope.md R13, R15), the table selector (R152), the
words a register offset names (10_state.md R33) and how each is read (R34 to R53, 20_memory.md R74, R77, R78). -/

namespace Sys2Proof.Machine

/-- Byte lane `n` of a word: `w[8n+7:8n]` (R13). -/
def lane (w : Word) (n : Nat) : Byte := w.extractLsb' (8 * n) 8

/-- The word `{b3, b2, b1, b0}`, lane 3 first. -/
def ofLanes (b3 b2 b1 b0 : Byte) : Word := b3 ++ b2 ++ b1 ++ b0

/-- `bswap32(x) = {x[7:0], x[15:8], x[23:16], x[31:24]}` (R15). -/
def bswap32 (x : Word) : Word := ofLanes (lane x 0) (lane x 1) (lane x 2) (lane x 3)

/-- The three substitution tables. -/
inductive TableSel where
  | t1
  | t2
  | t3
  deriving DecidableEq, Repr

/-- The table a `PERM_GEN` selector names; the issue check admits 1, 2 and 3 only (R152). -/
def tableSel (t : Nat) : Option TableSel :=
  match t with
  | 1 => some .t1
  | 2 => some .t2
  | 3 => some .t3
  | _ => none

/-- The table a selector names. -/
def CoreState.table (c : CoreState) (sel : TableSel) : Bytes256 :=
  match sel with
  | .t1 => c.t1
  | .t2 => c.t2
  | .t3 => c.t3

/-- `Tt[i] <- S[i]` for every `i`, and `STATUS.TtV <- 1` (R152). -/
def CoreState.installTable (c : CoreState) (sel : TableSel) (S : Bytes256) : CoreState :=
  match sel with
  | .t1 => { c with t1 := S, t1V := true }
  | .t2 => { c with t2 := S, t2V := true }
  | .t3 => { c with t3 := S, t3V := true }

/-- Index `4w + n` of the seed buffer (R77, R133). -/
def seedIndex (w n : Nat) : Byte := BitVec.ofNat 8 (4 * w + n)

/-- The seed buffer with bytes `4w` to `4w + 3` written from the lanes of `v` (R133). -/
def putSeedWord (seed : Bytes256) (w : Nat) (v : Word) : Bytes256 :=
  let s0 := Bytes256.put seed (seedIndex w 0) (lane v 0)
  let s1 := Bytes256.put s0 (seedIndex w 1) (lane v 1)
  let s2 := Bytes256.put s1 (seedIndex w 2) (lane v 2)
  Bytes256.put s2 (seedIndex w 3) (lane v 3)

/-- `SEEDW[w]` = `{SEED[4w+3], SEED[4w+2], SEED[4w+1], SEED[4w]}` (R77). -/
def seedWord (seed : Bytes256) (w : Nat) : Word :=
  ofLanes (Bytes256.entry seed (seedIndex w 3)) (Bytes256.entry seed (seedIndex w 2))
    (Bytes256.entry seed (seedIndex w 1)) (Bytes256.entry seed (seedIndex w 0))

/-- `CTR_HI`: "always reads 0x00000000. No command writes it" (R48). -/
def CoreState.ctrHi (_ : CoreState) : Word := 0

/-- What an aligned offset of the register space names (R33). -/
inductive Location where
  | cmd
  | status
  | errCmd
  | rounds
  | din (k : Fin 4)
  | dout0
  | dout1
  | ctrLo
  | ctrHi
  | fastEpoch
  | slowEpoch
  | id
  | keyReg (k : Fin 4)
  | seedWindow (w : Nat)
  | tableWindow (sel : TableSel) (i : Byte)
  | reserved
  deriving DecidableEq, Repr

/-- The single registers of R33. -/
def registerMap : List (Nat × Location) :=
  [ (0x000, .cmd), (0x004, .status), (0x008, .errCmd), (0x00C, .rounds),
    (0x010, .din 0), (0x014, .din 1), (0x018, .din 2), (0x01C, .din 3),
    (0x020, .dout0), (0x024, .dout1), (0x028, .ctrLo), (0x02C, .ctrHi),
    (0x030, .fastEpoch), (0x034, .slowEpoch), (0x038, .id),
    (0x040, .keyReg 0), (0x044, .keyReg 1), (0x048, .keyReg 2), (0x04C, .keyReg 3) ]

/-- The register map of R33: single registers, the seed window (R77), the table windows (R78), and reserved offsets
(R74). For aligned addresses. -/
def locate (a : BitVec 12) : Location :=
  let n := a.toNat
  if n < 0x100 then (registerMap.lookup n).getD .reserved
  else if n < 0x200 then .seedWindow ((n - 0x100) / 4)
  else if n < 0x400 then .reserved
  else if n < 0x800 then .tableWindow .t1 (BitVec.ofNat 8 ((n - 0x400) / 4))
  else if n < 0xC00 then .tableWindow .t2 (BitVec.ofNat 8 ((n - 0x800) / 4))
  else .tableWindow .t3 (BitVec.ofNat 8 ((n - 0xC00) / 4))

/-- R292: the places that read exactly while `BUSY` = 1. Every other one returns an unspecified word. -/
def Location.exactWhileBusy (loc : Location) : Bool :=
  match loc with
  | .cmd | .status | .din _ | .id | .reserved => true
  | .errCmd | .rounds | .dout0 | .dout1 | .ctrLo | .ctrHi | .fastEpoch | .slowEpoch
  | .keyReg _ | .seedWindow _ | .tableWindow _ _ => false

end Sys2Proof.Machine
end

