-- ==== Sys2Proof/Machine/Flags.lean ====
section
/-! DEFINITION. The flags of the core are the `STATUS` bits (10_state.md R35, R57). Here: the error codes as numbers
(60_exceptions.md R251), `READY` (R41), the `STATUS` word (R35), `ERRCMD` (R42), and the phase lock (R130). -/

namespace Sys2Proof.Machine

/-- The code of R251 as the 4-bit field `ERRCODE`. -/
def ErrorCode.bits (e : ErrorCode) : BitVec 4 :=
  match e with
  | .illegal => 1
  | .rounds => 2
  | .seedLen => 3
  | .arg => 4
  | .locked => 5
  | .notReady => 6
  | .busy => 7

/-- `STATUS.BUSY` (R36). -/
def CoreState.busy (c : CoreState) : Bool := c.latch.isSome

/-- `STATUS.ERR` (R37). -/
def CoreState.err (c : CoreState) : Bool := c.error.isSome

/-- `STATUS.ERRCODE`: "0 when `ERR` = 0" (R35, R37). -/
def CoreState.errCode (c : CoreState) : BitVec 4 :=
  match c.error with
  | some e => e.code.bits
  | none => 0

/-- `ERRCMD`: the recorded word, and 0 when `ERR` = 0 (R42). -/
def CoreState.errCmd (c : CoreState) : Word :=
  match c.error with
  | some e => e.cmd
  | none => 0

/-- `STATUS.READY`: `KEYV AND T1V AND T2V AND T3V`, computed at every read (R41). -/
def CoreState.ready (c : CoreState) : Bool := c.keyV && c.t1V && c.t2V && c.t3V

/-- The `STATUS` word, most significant field first (R35). -/
def CoreState.statusWord (c : CoreState) : Word :=
  0#18 ++ BitVec.ofBool c.ready ++ BitVec.ofBool c.run ++ BitVec.ofBool c.t3V ++ BitVec.ofBool c.t2V
    ++ BitVec.ofBool c.t1V ++ BitVec.ofBool c.keyV ++ c.errCode ++ 0#2 ++ BitVec.ofBool c.err ++ BitVec.ofBool c.busy

/-- R130: a setup command raises `E_LOCKED` while `RUN` = 1, before its own argument check `argument`. -/
def lockedOr (c : CoreState) (argument : Option ErrorCode) : Option ErrorCode :=
  if c.run then some .locked else argument

end Sys2Proof.Machine
end

