-- ==== Sys2Proof/Machine/Control.lean ====
section
/-! DEFINITION. 44_control.md: `NOP`, `SOFT_RESET`, `CLEAR_ERR`. The last two are exempt from the error block
(60_exceptions.md R255). -/

namespace Sys2Proof.Machine

/-- `NOP` (R230): "no state changes apart from the `BUSY` cycle". -/
def execNop (s : State) : Result :=
  runCommand (fun c => c.issueUnlessError (encode .nop) none) (fun _ c => c) s

/-- `SOFT_RESET` (R231): "every state element takes the value in 10_state.md rule R58". -/
def execSoftReset (s : State) : Result :=
  runCommand (fun c => c.issueChecked (encode .softReset) none) (fun _ _ => CoreState.reset) s

/-- `CLEAR_ERR` (R232): `ERR`, `ERRCODE` and `ERRCMD` become 0. -/
def execClearErr (s : State) : Result :=
  runCommand (fun c => c.issueChecked (encode .clearErr) none) (fun _ c => c.clearError) s

end Sys2Proof.Machine
end

