-- ==== Sys2Proof/Machine/Cipher.lean ====
section
/-! DEFINITION. 42_block_round.md: the round, the round constants, the key-register step and the block primitive, the
internal functions of `ENCRYPT_BLOCK`. -/

namespace Sys2Proof.Machine

/-- `rotl32(x, n)` for 0 < n < 32 (R14). -/
def rotl32 (x : Word) (n : Nat) : Word := (x <<< n) ||| (x >>> (32 - n))

/-- The round nonlinearity `F` (R170). -/
def roundF (x : Word) : Word := (x &&& rotl32 x Config.rotA) ^^^ rotl32 x Config.rotB

/-- `Round(l, r, k)` (R171): `(newLeft, newRight)`. -/
def cipherRound (l r k : Word) : Word × Word := (roundF l ^^^ r ^^^ k, l)

/-- `KeyStep(KR, c)` (R176): the round on `(KR[1], KR[0])`, written back, then words 1 to 3 rotated left by one. -/
def keyStep (kr : Quad) (c : Word) : Quad :=
  let n := cipherRound kr.w1 kr.w0 c
  ⟨n.2, kr.w2, kr.w3, n.1⟩

/-- The constant register's refresh (R174): its low two bits become the emitted bit `SEQ[0]`. -/
def refreshConstant (c : Word) (seq : BitVec 44) : Word :=
  (c &&& 0xFFFFFFFC) ||| (BitVec.ofBool (seq.getLsbD 0)).setWidth 32

/-- What a block carries from round to round (R56, R178). -/
structure RoundState where
  l : Word
  r : Word
  kr : Quad
  seq : BitVec 44
  c : Word
  deriving DecidableEq, Repr

/-- One round of a block, the body of the loop of R178: the data round reads `KR[0]` before the key step (R177). -/
def blockRound (st : RoundState) : RoundState :=
  let d := cipherRound st.l st.r st.kr.w0
  let c := refreshConstant st.c st.seq
  { l := d.1, r := d.2, kr := keyStep st.kr c, seq := st.seq >>> 1, c := c }

/-- `n` rounds. -/
def blockRounds (n : Nat) (st : RoundState) : RoundState :=
  match n with
  | 0 => st
  | k + 1 => blockRounds k (blockRound st)

/-- A block's start (R178, R180): `SEQ` and `c` are reloaded, the key register is carried in. -/
def blockStart (l0 r0 : Word) (kr : Quad) : RoundState :=
  { l := l0, r := r0, kr := kr, seq := Config.lfsrSeed, c := Config.constInit }

/-- `BlockPrim(l0, r0, KR, n)` (R178): the feed-forward pair (R181) and the key register after the block (R179). -/
def blockPrim (l0 r0 : Word) (kr : Quad) (n : Nat) : (Word × Word) × Quad :=
  let st := blockRounds n (blockStart l0 r0 kr)
  ((l0 ^^^ st.l, r0 ^^^ st.r), st.kr)

end Sys2Proof.Machine
end

