-- ==== Sys2Proof/Machine/Keystream.lean ====
section
/-! DEFINITION. 43_keystream.md: substitution, aging, the epochs and `ENCRYPT_BLOCK`. -/

namespace Sys2Proof.Machine

/-- `Sub(T, w)` (R205): each byte lane through the table, in place. -/
def substitute (T : Bytes256) (w : Word) : Word :=
  ofLanes (Bytes256.entry T (lane w 3)) (Bytes256.entry T (lane w 2))
    (Bytes256.entry T (lane w 1)) (Bytes256.entry T (lane w 0))

/-- `Age(A, B)[i] = B[A[i]]` (R207). -/
def age (A B : Bytes256) : Bytes256 := Bytes256.mapEntries A (Bytes256.entry B)

/-- The fast half of `EpochsAndAging` (R208): `FAST_EPOCH`, and the aging of `T1` by `T2`. -/
def fastEpochStep (c : CoreState) : CoreState :=
  let f := c.fastEpoch + 1
  if f = BitVec.ofNat 32 Config.fastPeriod then { c with fastEpoch := 0, t1 := age c.t1 c.t2 }
  else { c with fastEpoch := f }

/-- The slow half of `EpochsAndAging` (R208): `SLOW_EPOCH`, and the aging of `T2` by `T3`. -/
def slowEpochStep (c : CoreState) : CoreState :=
  let s := c.slowEpoch + 1
  if s = BitVec.ofNat 32 Config.slowPeriod then { c with slowEpoch := 0, t2 := age c.t2 c.t3 }
  else { c with slowEpoch := s }

/-- `EpochsAndAging()` (R208): `T1` ages first, with the `T2` from before this block's aging of `T2`. -/
def epochsAndAging (c : CoreState) : CoreState := slowEpochStep (fastEpochStep c)

/-- The counter block of R202: `C0` from the high half, `C1` from the low half. -/
def counterBlock (c : CoreState) : Word × Word := (bswap32 c.ctrHi, bswap32 c.ctrLo)

/-- Steps 1 and 2 of R200: the primitive on `(C0, C1)`, left and right in that order (R203). -/
def blockOutput (c : CoreState) : (Word × Word) × Quad :=
  let ctr := counterBlock c
  blockPrim ctr.1 ctr.2 c.kr c.rounds.toNat

/-- Steps 3 and 5 of R200: the swap (R204) and the substitution through the current `T1` (R205): `(KS0, KS1)`. -/
def keystreamWords (c : CoreState) : Word × Word :=
  let w := (blockOutput c).1
  (substitute c.t1 w.2, substitute c.t1 w.1)

/-- The perform of `ENCRYPT_BLOCK` (R200), steps 1 to 7 and the session lock (R210). -/
def performEncryptBlock (l : Latch) (c : CoreState) : CoreState :=
  let ks := keystreamWords c
  epochsAndAging
    { c with
      kr := (blockOutput c).2
      ctrLo := c.ctrLo + 1
      dout0 := ks.1 ^^^ l.din.w0
      dout1 := ks.2 ^^^ l.din.w1
      run := true }

/-- The issue check of `ENCRYPT_BLOCK` (R201). -/
def checkEncryptBlock (c : CoreState) : Option ErrorCode := if c.ready then none else some .notReady

/-- `ENCRYPT_BLOCK` (R200). -/
def execEncryptBlock (s : State) : Result :=
  runCommand (fun c => c.issueUnlessError (encode .encryptBlock) (checkEncryptBlock c)) performEncryptBlock s

end Sys2Proof.Machine
end

