-- ==== Sys2Proof/Machine/Permutation.lean ====
section
/-! DEFINITION. 41_permutation.md: the permutation generator and `PERM_GEN`. -/

namespace Sys2Proof.Machine

/-- `key[i mod L]` for `i` in 0..255, the key being the first `L` bytes of the seed buffer (R150, R152). DESIGN CHOICE for
`L` = 0, which no issue check lets pass and for which `i mod 0` has no reading in the spec: here it is `i`, so that
`PERM_GEN t, 0` reads `SEED[i]` (log entry 5). -/
def keyByte (seed : Bytes256) (len : Nat) (i : Byte) : Byte :=
  Bytes256.entry seed (BitVec.ofNat 8 (i.toNat % len))

/-- Step `i` of the generator's loop on `(S, j)` (R150); sums of bytes are modulo 256. -/
def permStep (seed : Bytes256) (len : Nat) (st : Bytes256 × Byte) (i : Byte) : Bytes256 × Byte :=
  let k := keyByte seed len i
  let j := st.2 + Bytes256.entry st.1 (i + k) + k
  (Bytes256.exchange st.1 i j, j)

/-- The loop of R150 over the given values of `i`, from the identity and `j` = 0. -/
def permLoop (seed : Bytes256) (len : Nat) (steps : List Byte) : Bytes256 × Byte :=
  steps.foldl (permStep seed len) (identityTable, 0)

/-- `for i in 0..255`. -/
def allBytes : List Byte := (List.range 256).map (BitVec.ofNat 8)

/-- `PermGen(SEED[0..L-1], L)` (R150). -/
def permGen (seed : Bytes256) (len : Nat) : Bytes256 := (permLoop seed len allBytes).1

/-- The issue checks of `PERM_GEN t, L`, in the order of R152. -/
def checkPermGen (t len : Nat) (c : CoreState) : Option ErrorCode :=
  lockedOr c
    (if (tableSel t).isNone then some .arg
     else if len < Config.seedLenMin ∨ Config.seedLenMax < len then some .seedLen
     else none)

/-- The perform of `PERM_GEN t, L` (R152). A selector that names no table never passes the
issue check; DESIGN CHOICE: here it writes nothing (log entry 5). A length of 0: see `keyByte`. -/
def performPermGen (t len : Nat) (c : CoreState) : CoreState :=
  match tableSel t with
  | some sel => c.installTable sel (permGen c.seed len)
  | none => c

/-- `PERM_GEN t, L` (R152). -/
def execPermGen (t len : Nat) (s : State) : Result :=
  runCommand (fun c => c.issueUnlessError (encode (.permGen t len)) (checkPermGen t len c))
    (fun _ c => performPermGen t len c) s

end Sys2Proof.Machine
end

