-- ==== Sys2Proof/Machine/Setup.lean ====
section
/-! DEFINITION. 40_session_setup.md: `SET_ROUNDS`, `LOAD_KEY`, `LOAD_SEED`. -/

namespace Sys2Proof.Machine

/-- The issue checks of `SET_ROUNDS n` (R131). -/
def checkSetRounds (n : Nat) (c : CoreState) : Option ErrorCode :=
  lockedOr c (if n < Config.roundsMin ∨ Config.roundsMax < n then some .rounds else none)

/-- The perform of `SET_ROUNDS n`: `ROUNDS <- n`, a 6-bit field (R131). DESIGN CHOICE for an `n` above 63, which no
issue check lets pass: it is cut to the field (log entry 5). -/
def performSetRounds (n : Nat) (c : CoreState) : CoreState := { c with rounds := BitVec.ofNat 6 n }

/-- `SET_ROUNDS n` (R131). -/
def execSetRounds (n : Nat) (s : State) : Result :=
  runCommand (fun c => c.issueUnlessError (encode (.setRounds n)) (checkSetRounds n c))
    (fun _ c => performSetRounds n c) s

/-- The issue check of `LOAD_KEY` (R132). -/
def checkLoadKey (c : CoreState) : Option ErrorCode := lockedOr c none

/-- The perform of `LOAD_KEY`: `KR <- LDIN0..LDIN3`, `STATUS.KEYV <- 1` (R132). -/
def performLoadKey (l : Latch) (c : CoreState) : CoreState := { c with kr := l.din, keyV := true }

/-- `LOAD_KEY` (R132). -/
def execLoadKey (s : State) : Result :=
  runCommand (fun c => c.issueUnlessError (encode .loadKey) (checkLoadKey c)) performLoadKey s

/-- The issue checks of `LOAD_SEED w` (R133). -/
def checkLoadSeed (w : Nat) (c : CoreState) : Option ErrorCode :=
  lockedOr c (if 63 < w then some .arg else none)

/-- The perform of `LOAD_SEED w`: `SEED[4w + n]` takes lane `n` of `LDIN0` (R133). DESIGN CHOICE for a `w` above 63,
which no issue check lets pass: the index is taken modulo 256 (log entry 5). -/
def performLoadSeed (w : Nat) (l : Latch) (c : CoreState) : CoreState :=
  { c with seed := putSeedWord c.seed w l.din.w0 }

/-- `LOAD_SEED w` (R133). -/
def execLoadSeed (w : Nat) (s : State) : Result :=
  runCommand (fun c => c.issueUnlessError (encode (.loadSeed w)) (checkLoadSeed w c)) (performLoadSeed w) s

end Sys2Proof.Machine
end

