-- ==== Sys2Proof/Machine/Dispatch.lean ====
section
/-! DEFINITION. The meaning of each command, in the phase the latch says: issue or perform. -/

namespace Sys2Proof.Machine

def exec (i : Instr) (s : State) : Host.Outcome State Fault Refusal :=
  match i with
  | .nop => Sys2Proof.Machine.execNop s
  | .softReset => Sys2Proof.Machine.execSoftReset s
  | .clearErr => Sys2Proof.Machine.execClearErr s
  | .setRounds n => Sys2Proof.Machine.execSetRounds n s
  | .loadKey => Sys2Proof.Machine.execLoadKey s
  | .loadSeed w => Sys2Proof.Machine.execLoadSeed w s
  | .permGen t len => Sys2Proof.Machine.execPermGen t len s
  | .encryptBlock => Sys2Proof.Machine.execEncryptBlock s

end Sys2Proof.Machine
end

