-- ==== Sys2Proof/Machine/Bus.lean ====
section
/-! DEFINITION. The host's accesses (20_memory.md R72 to R78), the issue of a command word (60_exceptions.md R256),
the core's turn (00_scope.md R21, R22) and the reset edge (70_reset_and_hazards.md R280 to R282). -/

namespace Sys2Proof.Machine

/-- The word a place holds (R33 to R53, R74, R77, R78). -/
def CoreState.readLocation (c : CoreState) (loc : Location) : Word :=
  match loc with
  | .cmd => 0
  | .status => c.statusWord
  | .errCmd => c.errCmd
  | .rounds => c.rounds.setWidth 32
  | .din k => c.din.get k
  | .dout0 => c.dout0
  | .dout1 => c.dout1
  | .ctrLo => c.ctrLo
  | .ctrHi => c.ctrHi
  | .fastEpoch => c.fastEpoch
  | .slowEpoch => c.slowEpoch
  | .id => Config.idValue
  | .keyReg k => c.kr.get k
  | .seedWindow w => seedWord c.seed w
  | .tableWindow sel i => (Bytes256.entry (c.table sel) i).setWidth 32
  | .reserved => 0

/-- The host notes the word a read returned (R109). -/
def State.note (s : State) (v : Word) : State :=
  { s with env := { s.env with noted := v :: s.env.noted } }

/-- `BusRead(a)` (R72, R76, R292): the place's word, or while `BUSY` = 1 an unspecified one where R292 says so. No read
changes the core. -/
def State.busRead (s : State) (a : BitVec 12) : State :=
  if s.core.busy && !(locate a).exactWhileBusy then
    { s.note (Config.busyRead s.draws) with draws := s.draws + 1 }
  else s.note (s.core.readLocation (locate a))

/-- `Issue(w)`, at `BusWrite(0x000, w)` (R34, R256): `BUSY` is checked first, then the word is decoded, and a command
goes through its own issue phase. -/
def State.issue (s : State) (w : Word) : Result :=
  match s.core.latch with
  | some _ => .next { s with core := s.core.issueWhileBusy w }
  | none =>
    match decode w with
    | none => .next { s with core := s.core.issueIllegal w }
    | some i => exec i s

/-- `DINk <- v` (R44); allowed while `BUSY` = 1 too (R293). -/
def CoreState.writeDin (c : CoreState) (k : Fin 4) (v : Word) : CoreState := { c with din := c.din.put k v }

/-- `BusWrite(a, v)` (R72): `CMD` issues, `DIN0..DIN3` store, every other place ignores it (R74, R75). -/
def State.busWrite (s : State) (a : BitVec 12) (v : Word) : Result :=
  match locate a with
  | .cmd => s.issue v
  | .din k => .next { s with core := s.core.writeDin k v }
  | .status | .errCmd | .rounds | .dout0 | .dout1 | .ctrLo | .ctrHi | .fastEpoch | .slowEpoch | .id
  | .keyReg _ | .seedWindow _ | .tableWindow _ _ | .reserved => .next s

/-- Why an access is outside the contract, if it is (R73, R301). -/
def Access.outside (a : Access) : Option Refusal :=
  if a.kind = .readWrite then some .readWriteAccess
  else if a.width ≠ .word then some .narrowAccess
  else if a.addr.toNat % 4 ≠ 0 then some .misalignedAccess
  else none

/-- One access of the host (R72, R73, R303). -/
def State.takeAccess (s : State) (a : Access) : Result :=
  match a.outside with
  | some r => .refused r
  | none =>
    match a.kind with
    | .write => s.busWrite a.addr a.data
    | .read | .readWrite => .next (s.busRead a.addr)

/-- A clock edge with `RST` = 1 (R280 to R282, R302): the reset state replaces the core's whole state, and a latched
command is dropped. An access in that cycle has no step. -/
def State.resetEdge (s : State) (during : Option Access) : Result :=
  match during with
  | some _ => .refused .accessDuringReset
  | none => .next { s with core := CoreState.reset }

/-- The core's turn (R21, R22): it performs the latched command. With none latched it does nothing (R283). -/
def State.coreTurn (s : State) : Result :=
  match s.core.latch with
  | none => .next s
  | some l =>
    match decode l.cmd with
    | some i => exec i s
    | none => .fault .latchNotACommand

/-- The state with its events replaced. -/
def State.withEvents (s : State) (es : List Event) : State :=
  { s with env := { s.env with events := es } }

/-- What an event does, the event itself already taken from the list. -/
def State.takeEvent (s : State) (e : Event) : Result :=
  match e with
  | .access a => s.takeAccess a
  | .rst during => s.resetEdge during
  | .perform => s.coreTurn

/-- The host's write of a word to `CMD` (R34, R109). -/
def cmdWrite (w : Word) : Access := { kind := .write, width := .word, addr := 0x000, data := w }

/-- `WR`: an aligned word write (R109). -/
def wordWrite (a : BitVec 12) (v : Word) : Access := { kind := .write, width := .word, addr := a, data := v }

/-- `RD`: an aligned word read (R109). -/
def wordRead (a : BitVec 12) : Access := { kind := .read, width := .word, addr := a, data := 0 }

end Sys2Proof.Machine
end

