-- ==== Sys2Proof/Machine/Step.lean ====
section
/-! DEFINITION. One step: the next event, or with no event left the core's turn. -/

namespace Sys2Proof.Machine

/-- One step (00_scope.md R21, R22; 20_memory.md R86). With no event left, the core performs what is latched, since every
latency is finite (R296), and otherwise keeps its state (R267, R283). -/
def step (s : State) : Host.Outcome State Fault Refusal :=
  match s.env.events with
  | [] => s.coreTurn
  | e :: rest => (s.withEvents rest).takeEvent e

/-- The state in which the host's next transaction writes the word to `CMD` and no command is in flight, so that the
next step takes exactly that command (log entry 1). -/
def State.withFetchWord (s : State) (nbits w : Nat) : State :=
  { s with
    core := s.core.release
    env := { s.env with events := .access (cmdWrite (BitVec.ofNat 32 (w % 2 ^ nbits))) :: s.env.events } }

end Sys2Proof.Machine
end

