-- ==== Sys2Proof/Machine/HostProgram.lean ====
section
/-! DEFINITION. The host program notation of 30_encoding.md R109 and R110, and the host's byte conventions
(20_memory.md R80, 70_reset_and_hazards.md R287), as lists of events. The core does not see them. -/

namespace Sys2Proof.Machine

/-- `WR reg, v` (R109). -/
def hostWR (offset : BitVec 12) (v : Word) : List Event := [.access (wordWrite offset v)]

/-- `RD reg` (R109). -/
def hostRD (offset : BitVec 12) : List Event := [.access (wordRead offset)]

/-- `CMD c` (R109). -/
def hostCMD (i : Instr) : List Event := [.access (cmdWrite (encode i))]

/-- `WAIT` (R109), with the core's turn after `polls` reads of `STATUS` that still see `BUSY` = 1; the last read is the
one that sees 0. Every latency (R296) is some number of polls. -/
def hostWAIT (polls : Nat) : List Event :=
  List.replicate polls (.access (wordRead 0x004)) ++ [.perform, .access (wordRead 0x004)]

/-- `ISSUE c` (R110). -/
def hostISSUE (polls : Nat) (i : Instr) : List Event := hostCMD i ++ hostWAIT polls

/-- `KEY k0, k1, k2, k3` (R110). -/
def hostKEY (polls : Nat) (k : Quad) : List Event :=
  hostWR 0x010 k.w0 ++ hostWR 0x014 k.w1 ++ hostWR 0x018 k.w2 ++ hostWR 0x01C k.w3 ++ hostISSUE polls .loadKey

/-- Byte `m` of a host's byte string; "bytes past L-1 taken as 0x00" (R110). -/
def hostByte (s : List Byte) (m : Nat) : Byte := s.getD m 0

/-- `{s[m+3], s[m+2], s[m+1], s[m]}`: the packing of seeds (R110, R287) and of blocks (R80). -/
def hostWord (s : List Byte) (m : Nat) : Word :=
  ofLanes (hostByte s (m + 3)) (hostByte s (m + 2)) (hostByte s (m + 1)) (hostByte s m)

/-- `SEEDTABLE Tt, s[0..L-1]` (R110): the seed's words, then `PERM_GEN Tt, L`. -/
def hostSEEDTABLE (polls t : Nat) (s : List Byte) : List Event :=
  ((List.range ((s.length + 3) / 4)).flatMap fun w =>
    hostWR 0x010 (hostWord s (4 * w)) ++ hostISSUE polls (.loadSeed w))
  ++ hostISSUE polls (.permGen t s.length)

/-- `ENC p0, p1` (R110). -/
def hostENC (polls : Nat) (p0 p1 : Word) : List Event :=
  hostWR 0x010 p0 ++ hostWR 0x014 p1 ++ hostISSUE polls .encryptBlock ++ hostRD 0x020 ++ hostRD 0x024

/-- `INIT n, k0..k3, s1, s2, s3` (R110): the source's `initSession` without the key derivation (R284). -/
def hostINIT (polls n : Nat) (k : Quad) (s1 s2 s3 : List Byte) : List Event :=
  hostISSUE polls (.setRounds n) ++ hostKEY polls k
    ++ hostSEEDTABLE polls 1 s1 ++ hostSEEDTABLE polls 2 s2 ++ hostSEEDTABLE polls 3 s3

end Sys2Proof.Machine
end

