-- ==== Sys2Proof/Safety.lean ====
section
/-! DEFINITION. The vocabulary of the claims: which accesses are in the contract, when a command is admitted, the
invariant of the core, the rules of 60_exceptions.md R256 and 30_encoding.md R106 restated on raw words, closed forms of
the block primitive, and streams of blocks. -/

namespace Sys2Proof.Machine

/-- A table is a bijection on 0..255 (10_state.md R54). -/
def IsPermutation (T : Bytes256) : Prop := Function.Bijective (Bytes256.entry T)

/-- An event inside the interface contract (R73, R282, R301). -/
def Event.inContract (e : Event) : Bool :=
  match e with
  | .access a => a.outside.isNone
  | .rst during => during.isNone
  | .perform => true

/-- The setup commands (R130). -/
def isSetup (i : Instr) : Bool :=
  match i with
  | .setRounds _ | .loadKey | .loadSeed _ | .permGen _ _ => true
  | .nop | .softReset | .clearErr | .encryptBlock => false

/-- The codes a command can raise (R253). -/
def codesOf (i : Instr) : List ErrorCode :=
  match i with
  | .nop | .softReset | .clearErr => [.busy]
  | .setRounds _ => [.busy, .locked, .rounds]
  | .loadKey => [.busy, .locked]
  | .loadSeed _ => [.busy, .locked, .arg]
  | .permGen _ _ => [.busy, .locked, .arg, .seedLen]
  | .encryptBlock => [.busy, .notReady]

/-- The command's own issue checks pass (R130 to R133, R152, R201, R230 to R232). -/
def Admitted (i : Instr) (c : CoreState) : Prop :=
  match i with
  | .nop => True
  | .softReset => True
  | .clearErr => True
  | .setRounds n => c.run = false ∧ 1 ≤ n ∧ n ≤ 44
  | .loadKey => c.run = false
  | .loadSeed w => c.run = false ∧ w ≤ 63
  | .permGen t len => c.run = false ∧ (t = 1 ∨ t = 2 ∨ t = 3) ∧ 1 ≤ len ∧ len ≤ 256
  | .encryptBlock => c.keyV = true ∧ c.t1V = true ∧ c.t2V = true ∧ c.t3V = true

/-- The invariant of the core: ranges (R43, R49, R50), bijections (R54), the phase (R40), the session's zero start
(R47, R49, R50), what is not loaded is at its reset value (R51, R53), and the latch holds an admitted command (R256). -/
structure CoreState.Inv (c : CoreState) : Prop where
  roundsMin : 1 ≤ c.rounds.toNat
  roundsMax : c.rounds.toNat ≤ 44
  fastRange : c.fastEpoch.toNat < 2000
  slowRange : c.slowEpoch.toNat < 4000000
  epochsAgree : c.fastEpoch.toNat = c.slowEpoch.toNat % 2000
  t1Perm : IsPermutation c.t1
  t2Perm : IsPermutation c.t2
  t3Perm : IsPermutation c.t3
  runReady : c.run = true → c.keyV = true ∧ c.t1V = true ∧ c.t2V = true ∧ c.t3V = true
  setupZero : c.run = false → c.ctrLo = 0 ∧ c.fastEpoch = 0 ∧ c.slowEpoch = 0 ∧ c.dout0 = 0 ∧ c.dout1 = 0
  keyUnset : c.keyV = false → c.kr = Quad.zero
  t1Unset : c.t1V = false → c.t1 = identityTable
  t2Unset : c.t2V = false → c.t2 = identityTable
  t3Unset : c.t3V = false → c.t3 = identityTable
  latched : ∀ l, c.latch = some l → ∃ i, decode l.cmd = some i ∧ Admitted i c

/-- States a run can reach: a reset state with any events before it, and steps. -/
inductive Reachable : State → Prop where
  | start (es : List Event) : Reachable (State.reset.withEvents es)
  | next (s t : State) : Reachable s → step s = .next t → Reachable t

/-- R106, its list of illegal words negated: a known opcode, `RSV` = 0, and every unused field 0. -/
def legalWord (w : Word) : Bool :=
  rsvField w == 0 &&
    (((opField w == 0x00 || opField w == 0x01 || opField w == 0x02 || opField w == 0x11 || opField w == 0x20)
        && argA w == 0 && argB w == 0)
      || ((opField w == 0x10 || opField w == 0x12) && argB w == 0)
      || opField w == 0x13)

/-- `Issue(w)` of R256 line by line, on the raw fields of the word. -/
def issueByTheRule (c : CoreState) (w : Word) : CoreState :=
  let op := opField w
  if c.busy then (if c.err then c else c.record .busy w)
  else if c.err && !(w == 0x00000002 || w == 0x00000001) then c
  else if !legalWord w then c.record .illegal w
  else if (op == 0x10 || op == 0x11 || op == 0x12 || op == 0x13) && c.run then c.record .locked w
  else if op == 0x10 && (decide (argA w < 1) || decide (argA w > 44)) then c.record .rounds w
  else if op == 0x12 && decide (argA w > 63) then c.record .arg w
  else if op == 0x13 && !(argA w == 1 || argA w == 2 || argA w == 3) then c.record .arg w
  else if op == 0x13 && (argB w == 0 || decide (argB w > 256)) then c.record .seedLen w
  else if op == 0x20 && !c.ready then c.record .notReady w
  else c.latchCommand w

/-- The round constant `c_i` in closed form (R174). -/
def roundConstant (i : Nat) : Word :=
  (0xFFFFFFFC : Word) ||| (BitVec.ofBool ((0x938BCA3083F : BitVec 44).getLsbD i)).setWidth 32

/-- The key register before round `i` of a block that starts with `kr` (R176, R180). -/
def keySchedule (kr : Quad) (i : Nat) : Quad :=
  match i with
  | 0 => kr
  | k + 1 => keyStep (keySchedule kr k) (roundConstant k)

/-- The data pair `(l_i, r_i)` after `i` rounds (R171, R177, R178). -/
def dataPair (l r : Word) (kr : Quad) (i : Nat) : Word × Word :=
  match i with
  | 0 => (l, r)
  | k + 1 => cipherRound (dataPair l r kr k).1 (dataPair l r kr k).2 (keySchedule kr k).w0

/-- One performed block with plaintext words `p` (R200). -/
def encryptOne (c : CoreState) (p : Word × Word) : CoreState :=
  performEncryptBlock ⟨encode .encryptBlock, ⟨p.1, p.2, 0, 0⟩⟩ c

/-- The core after a sequence of blocks. -/
def afterBlocks (c : CoreState) (ps : List (Word × Word)) : CoreState := ps.foldl encryptOne c

/-- The words read from `DOUT0`, `DOUT1` after each block of a sequence. -/
def encryptStream (c : CoreState) (ps : List (Word × Word)) : List (Word × Word) :=
  match ps with
  | [] => []
  | p :: rest => ((encryptOne c p).dout0, (encryptOne c p).dout1) :: encryptStream (encryptOne c p) rest

/-- XOR of two blocks, word by word. -/
def xorBlock (p q : Word × Word) : Word × Word := (p.1 ^^^ q.1, p.2 ^^^ q.2)

/-- `T` aged by `B`, `m` times (R207). -/
def ageTimes (T B : Bytes256) (m : Nat) : Bytes256 :=
  match m with
  | 0 => T
  | k + 1 => age (ageTimes T B k) B


/-- It is the core's turn: its event comes next, or none is left (R22, R86). -/
def CoreTurn (s : State) : Prop := s.env.events = [] ∨ ∃ rest, s.env.events = .perform :: rest

/-- A reset edge comes next (R280). -/
def ResetEdge (s : State) : Prop := ∃ rest, s.env.events = .rst none :: rest

/-- The next step performs command `i`. -/
def Performs (s : State) (i : Instr) : Prop :=
  CoreTurn s ∧ ∃ l, s.core.latch = some l ∧ decode l.cmd = some i

/-- The next step is the host's write of `w` to `CMD`, after which `rest` is to come. -/
def Issues (s : State) (w : Word) (rest : List Event) : Prop :=
  s.env.events = .access (cmdWrite w) :: rest

/-- Two cores hold the same session: all that a block's keystream depends on (R211). -/
structure SameSession (c d : CoreState) : Prop where
  rounds : c.rounds = d.rounds
  kr : c.kr = d.kr
  ctrLo : c.ctrLo = d.ctrLo
  fastEpoch : c.fastEpoch = d.fastEpoch
  slowEpoch : c.slowEpoch = d.slowEpoch
  t1 : c.t1 = d.t1
  t2 : c.t2 = d.t2
  t3 : c.t3 = d.t3

end Sys2Proof.Machine
end

