-- ==== Sys2Proof/Certificates/Slice0/Obligations.lean ====
section
/-! DEFINITION. The statements for the provers, from the numbered rules of spec/. Each docstring cites what it
formalises. -/

open Sys2Proof Sys2Proof.Machine

/-! ## Encoding -/

/-- 30_encoding.md R101, R104, R105, R108: every command whose arguments fit their fields is read back from its own
word, with every operand at every value the encoding admits. -/
def Obligations.DecodeOfEncode : Prop :=
  ∀ i : Instr, i.wellFormed = true → decode (encode i) = some i

/-- R101, R104, R105: a decoded word is the encoding of what it decodes to; no bit of it is dropped. -/
def Obligations.EncodeOfDecode : Prop :=
  ∀ (w : Word) (i : Instr), decode w = some i → i.wellFormed = true ∧ encode i = w

/-- R104 and the words of 95_test_vectors.md section 2.1, one or more a family. -/
def Obligations.ChosenWordsDecode : Prop :=
  decode 0x00000000 = some .nop ∧ decode 0x00000001 = some .softReset ∧ decode 0x00000002 = some .clearErr ∧
  decode 0x00002C10 = some (.setRounds 44) ∧ decode 0x00000011 = some .loadKey ∧
  decode 0x00003F12 = some (.loadSeed 63) ∧ decode 0x000C0313 = some (.permGen 3 12) ∧
  decode 0x01000113 = some (.permGen 1 256) ∧ decode 0x00000020 = some .encryptBlock ∧
  decode 0x02000013 = none ∧ decode 0x00000111 = none ∧ decode 0x00000021 = none

/-- R105: the rows do not overlap, a word that matches a row decodes to it whatever its arguments, a word that matches
none is illegal, and the rule's four out-of-range words are legal, their argument checks raising the error at issue. -/
def Obligations.OpcodeRowsDecide : Prop :=
  (∀ (w : Word) (r q : OpcodeRow), r ∈ opcodeMap → q ∈ opcodeMap →
    w &&& r.mask = r.bits → w &&& q.mask = q.bits → r = q) ∧
  (∀ (w : Word) (r : OpcodeRow), r ∈ opcodeMap → w &&& r.mask = r.bits → decode w = some (r.name.instr w)) ∧
  (∀ w : Word, (∀ r ∈ opcodeMap, w &&& r.mask ≠ r.bits) → decode w = none) ∧
  decode 0x00002D10 = some (.setRounds 45) ∧ decode 0x00004012 = some (.loadSeed 64) ∧
  decode 0x000C0013 = some (.permGen 0 12) ∧ decode 0x00000113 = some (.permGen 1 0) ∧
  (∀ (s : State) (w : Word) (code : ErrorCode) (rest : List Event), Issues s w rest → s.core.latch = none →
    s.core.error = none → s.core.run = false →
    (w, code) ∈ [((0x00002D10 : Word), ErrorCode.rounds), (0x00004012, .arg), (0x000C0013, .arg),
      (0x00000113, .seedLen)] →
    step s = .next { s.withEvents rest with core := { s.core with error := some ⟨code, w⟩ } })

/-- R106: the illegal words are those with an unassigned opcode, a nonzero `RSV`, or a nonzero field their command does
not use; issuing one raises `E_ILLEGAL`, and while `ERR` = 1 it is discarded. -/
def Obligations.IllegalWords : Prop :=
  (∀ w : Word, decode w = none ↔ legalWord w = false) ∧
  (∀ (s : State) (w : Word) (rest : List Event), Issues s w rest → s.core.latch = none → legalWord w = false →
    (s.core.error = none →
      step s = .next { s.withEvents rest with core := { s.core with error := some ⟨.illegal, w⟩ } }) ∧
    (s.core.error ≠ none → step s = .next (s.withEvents rest)))

/-! ## The step -/

/-- R34, R105, R256: a `CMD` write of a word that decodes, with no command in flight, runs the command's own meaning in
its issue phase, once the event is taken from the list. -/
def Obligations.StepIssuesTheDecodedCommand : Prop :=
  ∀ (s : State) (w : Word) (rest : List Event) (i : Instr),
    Issues s w rest → s.core.latch = none → decode w = some i → step s = exec i (s.withEvents rest)

/-- R21, R22, R283: on the core's turn the step runs the meaning of the latched command; with none latched nothing
changes but the event taken. That a turn is an event, or an empty list of events, is the model's choice (log entry 1). -/
def Obligations.StepPerformsTheLatchedCommand : Prop :=
  ∀ (s : State) (rest : List Event),
    (∀ (l : Latch) (i : Instr), s.core.latch = some l → decode l.cmd = some i →
      (s.env.events = [] → step s = exec i s) ∧
      (s.env.events = .perform :: rest → step s = exec i (s.withEvents rest))) ∧
    (s.core.latch = none →
      (s.env.events = [] → step s = .next s) ∧
      (s.env.events = .perform :: rest → step s = .next (s.withEvents rest)))

/-- The placed word is what the next step takes, the bits above `nbits` zero. The placing is the model's choice (log
entry 1): it stands for the host's `CMD` write (R34). -/
def Obligations.FetchWordRunsTheDecodedCommand : Prop :=
  ∀ (s : State) (nbits w : Nat) (i : Instr), decodeTableWord nbits w = some i →
    step (s.withFetchWord nbits w) = exec i { s with core := { s.core with latch := none } }

/-! ## Issue and errors -/

/-- 60_exceptions.md R256: a `CMD` write does what `Issue(w)` says, the checks in its order on the raw fields. -/
def Obligations.IssueFollowsTheCheckOrder : Prop :=
  ∀ (s : State) (w : Word) (rest : List Event), Issues s w rest →
    step s = .next { s.withEvents rest with core := issueByTheRule s.core w }

/-- R253, R258: a `CMD` write that records an error records the written word, with a code that R253 lists for its command;
`E_BUSY` is recorded exactly when a command is in flight, so a host that polls `BUSY` first never sees it. -/
def Obligations.CodesACommandCanRaise : Prop :=
  ∀ (s t : State) (w : Word) (rest : List Event) (e : ErrorRecord), Issues s w rest → s.core.error = none →
    step s = .next t → t.core.error = some e →
    e.cmd = w ∧ (e.code = .busy ↔ s.core.latch ≠ none) ∧
    (decode w = none → e.code = .busy ∨ e.code = .illegal) ∧
    (∀ i, decode w = some i → e.code ∈ codesOf i)

/-- R255: while `ERR` = 1 every word but `CLEAR_ERR` and `SOFT_RESET` is discarded, an illegal one too, and the record
stays; those two are latched, unless a command is in flight (R258). -/
def Obligations.ErrorBlock : Prop :=
  ∀ (s : State) (w : Word) (rest : List Event) (e : ErrorRecord), Issues s w rest → s.core.error = some e →
    (w ≠ 0x00000001 → w ≠ 0x00000002 → step s = .next (s.withEvents rest)) ∧
    (w = 0x00000001 ∨ w = 0x00000002 → s.core.latch = none →
      step s = .next { s.withEvents rest with core := { s.core with latch := some ⟨w, s.core.din⟩ } })

/-- R254: a `CMD` write that records an error sets `ERR`, `ERRCODE` to the code's number (R251) and `ERRCMD` to the word,
and changes nothing else; a record already there is kept. -/
def Obligations.RecordingAnError : Prop :=
  ∀ (s t : State) (w : Word) (rest : List Event), Issues s w rest → step s = .next t →
    (s.core.error = none → t.core.error ≠ none →
      ∃ (code : ErrorCode) (n : BitVec 4),
        (code, n) ∈ [(.illegal, 1), (.rounds, 2), (.seedLen, 3), (.arg, 4), (.locked, 5), (.notReady, 6),
        (.busy, 7)] ∧
        t = { s.withEvents rest with core := { s.core with error := some ⟨code, w⟩ } } ∧
        t.core.err = true ∧ t.core.errCode = n ∧ t.core.errCmd = w) ∧
    (s.core.error ≠ none → t.core.error = s.core.error)

/-- R258: a `CMD` write while `BUSY` = 1 leaves the latch alone and records `E_BUSY` if no error is recorded; the
command in flight then completes with all its effects, and `CLEAR_ERR` and `SOFT_RESET` clear that record too. -/
def Obligations.CommandWriteWhileBusy : Prop :=
  ∀ (s : State) (l : Latch) (i : Instr) (w : Word) (rest : List Event),
    s.core.latch = some l → decode l.cmd = some i → Issues s w (.perform :: rest) →
    ∃ u v : State,
      step s = .next u ∧
      u.core = { s.core with error := some (s.core.error.getD ⟨.busy, w⟩) } ∧
      step (s.withEvents (.perform :: rest)) = .next v ∧
      step u = .next { v with
        core := { v.core with error := if i = .clearErr ∨ i = .softReset then none else u.core.error } }

/-- R130: in the RUNNING phase a setup command raises `E_LOCKED`, whatever its arguments, with no other effect; and in
neither phase of its own does it change the block counter, the epochs, the results or the session phase. -/
def Obligations.SetupCommandsAreLocked : Prop :=
  ∀ (i : Instr) (s : State), isSetup i = true →
    (s.core.latch = none → s.core.error = none → s.core.run = true →
      exec i s = .next { s with core := { s.core with error := some ⟨.locked, encode i⟩ } }) ∧
    (∀ t, exec i s = .next t →
      t.core.ctrLo = s.core.ctrLo ∧ t.core.fastEpoch = s.core.fastEpoch ∧ t.core.slowEpoch = s.core.slowEpoch ∧
      t.core.dout0 = s.core.dout0 ∧ t.core.dout1 = s.core.dout1 ∧ t.core.run = s.core.run)

/-! ## The commands: their words, their issue checks, and their performs. Each perform is the whole next state. -/

/-- 40_session_setup.md R131. -/
def Obligations.SetRoundsCommand : Prop :=
  ∀ (n : Nat) (s : State),
    (n < 256 → encode (.setRounds n) = 0x00000010 ||| (BitVec.ofNat 32 n <<< 8)) ∧
    (s.core.latch = none → s.core.error = none → s.core.run = true →
      exec (.setRounds n) s = .next { s with core := { s.core with error := some ⟨.locked, encode (.setRounds n)⟩ } }) ∧
    (s.core.latch = none → s.core.error = none → s.core.run = false → n < 1 ∨ 44 < n →
      exec (.setRounds n) s = .next { s with core := { s.core with error := some ⟨.rounds, encode (.setRounds n)⟩ } }) ∧
    (s.core.latch = none → s.core.error = none → s.core.run = false → 1 ≤ n → n ≤ 44 →
      exec (.setRounds n) s
        = .next { s with core := { s.core with latch := some ⟨encode (.setRounds n), s.core.din⟩ } }) ∧
    (∀ l, s.core.latch = some l → 1 ≤ n → n ≤ 44 →
      ∃ r : BitVec 6, r.toNat = n ∧
        exec (.setRounds n) s = .next { s with core := { s.core with rounds := r, latch := none } })

/-- R132. -/
def Obligations.LoadKeyCommand : Prop :=
  ∀ s : State,
    encode .loadKey = 0x00000011 ∧
    (s.core.latch = none → s.core.error = none → s.core.run = true →
      exec .loadKey s = .next { s with core := { s.core with error := some ⟨.locked, 0x00000011⟩ } }) ∧
    (s.core.latch = none → s.core.error = none → s.core.run = false →
      exec .loadKey s = .next { s with core := { s.core with latch := some ⟨0x00000011, s.core.din⟩ } }) ∧
    (∀ l, s.core.latch = some l →
      exec .loadKey s = .next { s with core := { s.core with
        kr := ⟨l.din.w0, l.din.w1, l.din.w2, l.din.w3⟩, keyV := true, latch := none } })

/-- R133. -/
def Obligations.LoadSeedCommand : Prop :=
  ∀ (w : Nat) (s : State),
    (w < 256 → encode (.loadSeed w) = 0x00000012 ||| (BitVec.ofNat 32 w <<< 8)) ∧
    (s.core.latch = none → s.core.error = none → s.core.run = true →
      exec (.loadSeed w) s = .next { s with core := { s.core with error := some ⟨.locked, encode (.loadSeed w)⟩ } }) ∧
    (s.core.latch = none → s.core.error = none → s.core.run = false → 63 < w →
      exec (.loadSeed w) s = .next { s with core := { s.core with error := some ⟨.arg, encode (.loadSeed w)⟩ } }) ∧
    (s.core.latch = none → s.core.error = none → s.core.run = false → w ≤ 63 →
      exec (.loadSeed w) s
        = .next { s with core := { s.core with latch := some ⟨encode (.loadSeed w), s.core.din⟩ } }) ∧
    (∀ l, s.core.latch = some l → w ≤ 63 →
      ∃ S : Bytes256,
        exec (.loadSeed w) s = .next { s with core := { s.core with seed := S, latch := none } } ∧
        (∀ n, n < 4 → Bytes256.entry S (BitVec.ofNat 8 (4 * w + n)) = l.din.w0.extractLsb' (8 * n) 8) ∧
        (∀ j : Byte, j.toNat < 4 * w ∨ 4 * w + 3 < j.toNat → Bytes256.entry S j = Bytes256.entry s.core.seed j))

/-- 41_permutation.md R152. -/
def Obligations.PermGenCommand : Prop :=
  ∀ (t len : Nat) (s : State),
    (t < 256 → len < 512 →
      encode (.permGen t len) = 0x00000013 ||| (BitVec.ofNat 32 t <<< 8) ||| (BitVec.ofNat 32 len <<< 16)) ∧
    (s.core.latch = none → s.core.error = none →
      (s.core.run = true →
        exec (.permGen t len) s
          = .next { s with core := { s.core with error := some ⟨.locked, encode (.permGen t len)⟩ } }) ∧
      (s.core.run = false → t ≠ 1 → t ≠ 2 → t ≠ 3 →
        exec (.permGen t len) s
          = .next { s with core := { s.core with error := some ⟨.arg, encode (.permGen t len)⟩ } }) ∧
      (s.core.run = false → t = 1 ∨ t = 2 ∨ t = 3 → len = 0 ∨ 256 < len →
        exec (.permGen t len) s
          = .next { s with core := { s.core with error := some ⟨.seedLen, encode (.permGen t len)⟩ } }) ∧
      (s.core.run = false → t = 1 ∨ t = 2 ∨ t = 3 → 1 ≤ len → len ≤ 256 →
        exec (.permGen t len) s
          = .next { s with core := { s.core with latch := some ⟨encode (.permGen t len), s.core.din⟩ } })) ∧
    (∀ l, s.core.latch = some l → 1 ≤ len → len ≤ 256 →
      (t = 1 → exec (.permGen t len) s
        = .next { s with core := { s.core with t1 := permGen s.core.seed len, t1V := true, latch := none } }) ∧
      (t = 2 → exec (.permGen t len) s
        = .next { s with core := { s.core with t2 := permGen s.core.seed len, t2V := true, latch := none } }) ∧
      (t = 3 → exec (.permGen t len) s
        = .next { s with core := { s.core with t3 := permGen s.core.seed len, t3V := true, latch := none } }))

/-- 43_keystream.md R200, with R201 (not ready), R202 and R203 (counter block and word order), R204 (swap), R205, R206,
R208 (both agings from the tables before the block), R209 (the counter wraps at 2^32) and R210 (`RUN`). -/
def Obligations.EncryptBlockCommand : Prop :=
  ∀ s : State,
    encode .encryptBlock = 0x00000020 ∧
    (s.core.latch = none → s.core.error = none →
      ¬ (s.core.keyV = true ∧ s.core.t1V = true ∧ s.core.t2V = true ∧ s.core.t3V = true) →
      exec .encryptBlock s = .next { s with core := { s.core with error := some ⟨.notReady, 0x00000020⟩ } }) ∧
    (s.core.latch = none → s.core.error = none →
      s.core.keyV = true ∧ s.core.t1V = true ∧ s.core.t2V = true ∧ s.core.t3V = true →
      exec .encryptBlock s = .next { s with core := { s.core with latch := some ⟨0x00000020, s.core.din⟩ } }) ∧
    (∀ (l : Latch) (W0 W1 : Word) (KRn : Quad), s.core.latch = some l →
      blockPrim (bswap32 0) (bswap32 s.core.ctrLo) s.core.kr s.core.rounds.toNat = ((W0, W1), KRn) →
      exec .encryptBlock s = .next { s with core := { s.core with
        kr := KRn
        ctrLo := s.core.ctrLo + 1
        dout0 := substitute s.core.t1 W1 ^^^ l.din.w0
        dout1 := substitute s.core.t1 W0 ^^^ l.din.w1
        fastEpoch := if s.core.fastEpoch + 1 = 2000 then 0 else s.core.fastEpoch + 1
        slowEpoch := if s.core.slowEpoch + 1 = 4000000 then 0 else s.core.slowEpoch + 1
        t1 := if s.core.fastEpoch + 1 = 2000 then age s.core.t1 s.core.t2 else s.core.t1
        t2 := if s.core.slowEpoch + 1 = 4000000 then age s.core.t2 s.core.t3 else s.core.t2
        run := true
        latch := none } })

/-- 44_control.md R230. -/
def Obligations.NopCommand : Prop :=
  ∀ s : State,
    encode .nop = 0x00000000 ∧
    (s.core.latch = none → s.core.error = none →
      exec .nop s = .next { s with core := { s.core with latch := some ⟨0x00000000, s.core.din⟩ } }) ∧
    (s.core.latch = none → s.core.error ≠ none → exec .nop s = .next s) ∧
    (∀ l, s.core.latch = some l → exec .nop s = .next { s with core := { s.core with latch := none } })

/-- R231: accepted with an error recorded and in either phase; `E_BUSY` while a command is in flight; every state element
takes its reset value. The host's own side is not the core's state. -/
def Obligations.SoftResetCommand : Prop :=
  ∀ s : State,
    encode .softReset = 0x00000001 ∧
    (s.core.latch = none →
      exec .softReset s = .next { s with core := { s.core with latch := some ⟨0x00000001, s.core.din⟩ } }) ∧
    (∀ (l : Latch) (rest : List Event), s.core.latch = some l → Issues s 0x00000001 rest →
      step s = .next { s.withEvents rest with
        core := { s.core with error := some (s.core.error.getD ⟨.busy, 0x00000001⟩) } }) ∧
    (∀ l, s.core.latch = some l → exec .softReset s = .next { s with core := State.reset.core })

/-- R232: accepted with an error recorded and in either phase; `E_BUSY` while a command is in flight. -/
def Obligations.ClearErrCommand : Prop :=
  ∀ s : State,
    encode .clearErr = 0x00000002 ∧
    (s.core.latch = none →
      exec .clearErr s = .next { s with core := { s.core with latch := some ⟨0x00000002, s.core.din⟩ } }) ∧
    (∀ (l : Latch) (rest : List Event), s.core.latch = some l → Issues s 0x00000002 rest →
      step s = .next { s.withEvents rest with
        core := { s.core with error := some (s.core.error.getD ⟨.busy, 0x00000002⟩) } }) ∧
    (∀ l, s.core.latch = some l →
      ∃ t, exec .clearErr s = .next t ∧ t = { s with core := { s.core with error := none, latch := none } } ∧
        t.core.err = false ∧ t.core.errCode = 0 ∧ t.core.errCmd = 0)

/-! ## The block primitive -/

/-- 42_block_round.md R170, R171, R176: each bit of `F`; the round from the old pair; and the key-register step, every
right-hand side read before any write. The inverse for a known key is the spec's own derivation (R172). -/
def Obligations.RoundAndKeyStep : Prop :=
  (∀ (x : Word) (i : Nat), i < 32 →
    (roundF x).getLsbD i = ((x.getLsbD i && x.getLsbD ((i + 27) % 32)) ^^ x.getLsbD ((i + 31) % 32))) ∧
  (∀ l r k : Word, cipherRound l r k = (roundF l ^^^ r ^^^ k, l)) ∧
  (∀ l r k l' r' : Word, cipherRound l r k = (l', r') → l = r' ∧ r = l' ^^^ roundF r' ^^^ k) ∧
  (∀ (kr : Quad) (c : Word), keyStep kr c = ⟨kr.w1, kr.w2, kr.w3, roundF kr.w1 ^^^ kr.w0 ^^^ c⟩)

/-- R173, R174, R175, R180: the constant of round `i` of every block is bit `i` of the seed under the fixed upper bits,
whatever the data and the key; it is 0xFFFFFFFD in the rounds R175 lists and 0xFFFFFFFC in the others. R174 marks the
upper bits and the reading of "low 2 bits" as not in its source, and R175 as derived (log entry 7). -/
def Obligations.RoundConstantIsTheSeedBit : Prop :=
  ∀ (l r : Word) (kr : Quad) (i : Nat),
    (blockRounds (i + 1) (blockStart l r kr)).c = roundConstant i ∧
    (i < 44 → roundConstant i =
      if i ∈ [0, 1, 2, 3, 4, 5, 11, 16, 17, 21, 23, 26, 27, 28, 29, 31, 35, 36, 37, 40, 43] then 0xFFFFFFFD
      else 0xFFFFFFFC)

/-- R178, R181: `n` rounds of the primitive are `n` data rounds keyed by `KR[0]` of the key schedule, the pair XORed
with the input, and `n` key steps that do not see the data. -/
def Obligations.BlockPrimitiveClosedForm : Prop :=
  ∀ (l r : Word) (kr : Quad) (n : Nat),
    blockPrim l r kr n
      = ((l ^^^ (dataPair l r kr n).1, r ^^^ (dataPair l r kr n).2), keySchedule kr n)

/-- R183, which the spec marks as derived from R176 to R178: the first four round keys, the move of words 1 to 3, and
which word round `i + 4` uses. -/
def Obligations.FirstRoundKeys : Prop :=
  ∀ kr : Quad,
    (keySchedule kr 0).w0 = kr.w0 ∧ (keySchedule kr 1).w0 = kr.w1 ∧
    (keySchedule kr 2).w0 = kr.w2 ∧ (keySchedule kr 3).w0 = kr.w3 ∧
    ∀ i, (keySchedule kr (i + 4)).w0 = (keySchedule kr (i + 1)).w3 ∧
      (keySchedule kr (i + 1)).w0 = (keySchedule kr i).w1 ∧ (keySchedule kr (i + 1)).w1 = (keySchedule kr i).w2 ∧
      (keySchedule kr (i + 1)).w2 = (keySchedule kr i).w3

/-- R179: the key register is carried from block to block; after `b` blocks it has taken `b` times `ROUNDS` key steps,
whatever the plaintext. The count is the spec's own derivation. -/
def Obligations.KeyRegisterIsCarried : Prop :=
  ∀ (c : CoreState) (ps : List (Word × Word)),
    (afterBlocks c ps).kr = (fun kr => keySchedule kr c.rounds.toNat)^[ps.length] c.kr

/-! ## The permutation generator -/

/-- R151: the generator always returns a bijection. -/
def Obligations.PermGenIsAPermutation : Prop :=
  ∀ (seed : Bytes256) (len : Nat), IsPermutation (permGen seed len)

/-- R150: the generator's loop from the identity and `j` = 0 over 0 to 255, each step reading `S` as the steps before it
left it, the index `(i + k)` taken before the swap. R152: "`SEED` bytes at index L and above are not read". -/
def Obligations.PermGenFollowsItsLoop : Prop :=
  (∀ (seed : Bytes256) (len : Nat), 1 ≤ len → len ≤ 256 →
    (∀ x : Byte, Bytes256.entry (permLoop seed len []).1 x = x) ∧ (permLoop seed len []).2 = 0 ∧
    (∀ (earlier : List Byte) (i k j x : Byte), k = Bytes256.entry seed (BitVec.ofNat 8 (i.toNat % len)) →
      j = (permLoop seed len earlier).2 + Bytes256.entry (permLoop seed len earlier).1 (i + k) + k →
      (permLoop seed len (earlier ++ [i])).2 = j ∧
      Bytes256.entry (permLoop seed len (earlier ++ [i])).1 x =
        (if x = j then Bytes256.entry (permLoop seed len earlier).1 i
        else if x = i then Bytes256.entry (permLoop seed len earlier).1 j
        else Bytes256.entry (permLoop seed len earlier).1 x)) ∧
    permGen seed len = (permLoop seed len ((List.range 256).map (BitVec.ofNat 8))).1) ∧
  (∀ (seed seed' : Bytes256) (len : Nat), 1 ≤ len → len ≤ 256 →
    (∀ j : Byte, j.toNat < len → Bytes256.entry seed j = Bytes256.entry seed' j) →
    permGen seed len = permGen seed' len)

/-! ## The keystream engine -/

/-- R205: each lane is mapped on its own and stays in place, and the identity table returns the word. R15: the byte
reverse puts lane `3 - n` into lane `n`. -/
def Obligations.SubstitutionByLanes : Prop :=
  (∀ (T : Bytes256) (w : Word) (n : Nat), n < 4 →
    (substitute T w).extractLsb' (8 * n) 8 = Bytes256.entry T (w.extractLsb' (8 * n) 8)) ∧
  (∀ w : Word, substitute identityTable w = w) ∧
  (∀ (x : Word) (n : Nat), n < 4 → (bswap32 x).extractLsb' (8 * n) 8 = x.extractLsb' (8 * (3 - n)) 8)

/-- R207: entry `i` of `Age(A, B)` is `B[A[i]]`, and the aging of two bijections is one. -/
def Obligations.AgingComposes : Prop :=
  ∀ A B : Bytes256,
    (∀ i : Byte, Bytes256.entry (age A B) i = Bytes256.entry B (Bytes256.entry A i)) ∧
    (IsPermutation A → IsPermutation B → IsPermutation (age A B))

/-- R208: whenever `SLOW_EPOCH` wraps, `FAST_EPOCH` wraps in the same block, `T1` ages with the `T2` from before that
block's aging of `T2`, and `T3` stays. It holds under the invariant, whose epoch clause rules out other pairs. -/
def Obligations.BothAgingsInOneBlock : Prop :=
  ∀ (c : CoreState) (p : Word × Word), c.Inv → c.slowEpoch.toNat + 1 = 4000000 →
    (encryptOne c p).fastEpoch = 0 ∧ (encryptOne c p).slowEpoch = 0 ∧
    (encryptOne c p).t1 = age c.t1 c.t2 ∧ (encryptOne c p).t2 = age c.t2 c.t3 ∧ (encryptOne c p).t3 = c.t3

/-- R215, R217, which the spec marks as derived from R207 and R208: the tables of a fresh session after any number of
blocks up to 4,000,000, whatever the plaintext. -/
def Obligations.AgingBoundaries : Prop :=
  ∀ (c : CoreState) (ps : List (Word × Word)), c.fastEpoch = 0 → c.slowEpoch = 0 →
    (ps.length < 4000000 →
      (afterBlocks c ps).t1 = ageTimes c.t1 c.t2 (ps.length / 2000) ∧
      (afterBlocks c ps).t2 = c.t2 ∧ (afterBlocks c ps).t3 = c.t3 ∧
      (afterBlocks c ps).fastEpoch.toNat = ps.length % 2000 ∧ (afterBlocks c ps).slowEpoch.toNat = ps.length) ∧
    (ps.length = 4000000 →
      (afterBlocks c ps).t1 = ageTimes c.t1 c.t2 2000 ∧
      (afterBlocks c ps).t2 = age c.t2 c.t3 ∧ (afterBlocks c ps).t3 = c.t3 ∧
      (afterBlocks c ps).fastEpoch = 0 ∧ (afterBlocks c ps).slowEpoch = 0)

/-- R47, R209, R214: the counter counts performed blocks modulo 2^32, with no carry into `CTR_HI` and no error. -/
def Obligations.CounterCountsBlocks : Prop :=
  ∀ (c : CoreState) (ps : List (Word × Word)),
    (afterBlocks c ps).ctrLo = c.ctrLo + BitVec.ofNat 32 ps.length ∧
    (afterBlocks c ps).readLocation .ctrHi = 0 ∧ (afterBlocks c ps).error = c.error

/-- R211: two performs that differ only in their plaintext give the same session, and the same keystream. -/
def Obligations.KeystreamIgnoresThePlaintext : Prop :=
  ∀ (s t u : State) (d e : Quad),
    exec .encryptBlock { s with core := { s.core with latch := some ⟨0x00000020, d⟩ } } = .next t →
    exec .encryptBlock { s with core := { s.core with latch := some ⟨0x00000020, e⟩ } } = .next u →
    u = { t with core := { t.core with dout0 := u.core.dout0, dout1 := u.core.dout1 } } ∧
    t.core.dout0 ^^^ d.w0 = u.core.dout0 ^^^ e.w0 ∧ t.core.dout1 ^^^ d.w1 = u.core.dout1 ^^^ e.w1

/-- R211: two sessions that start alike give the same ciphertext and stay alike, whatever else their cores hold. -/
def Obligations.EqualSessionsGiveEqualStreams : Prop :=
  ∀ (c d : CoreState) (ps : List (Word × Word)), SameSession c d →
    encryptStream c ps = encryptStream d ps ∧ SameSession (afterBlocks c ps) (afterBlocks d ps)

/-- R212, which the spec marks as derived from R206 and R211: a second session that starts like the first, run over the
ciphertext in order, returns the plaintext. -/
def Obligations.DecryptionIsTheSameCommand : Prop :=
  ∀ (c d : CoreState) (ps : List (Word × Word)), SameSession c d →
    encryptStream d (encryptStream c ps) = ps

/-- R216, which the spec marks as derived from R206 and R211: two plaintexts of one length under two sessions that start
alike. -/
def Obligations.TwoTimePad : Prop :=
  ∀ (c d : CoreState) (ps qs : List (Word × Word)), SameSession c d → ps.length = qs.length →
    List.zipWith xorBlock (encryptStream c ps) (encryptStream d qs) = List.zipWith xorBlock ps qs

/-! ## The bus -/

/-- 10_state.md R35: the `STATUS` word, field by field, `ERRCODE` as the numbers of 60_exceptions.md R251, reserved bits 0;
its reset value; and that writes are ignored. -/
def Obligations.StatusLayout : Prop :=
  State.reset.core.statusWord = 0 ∧
  (∀ (s : State) (v : Word) (rest : List Event), s.env.events = .access (wordWrite 0x004 v) :: rest →
    step s = .next (s.withEvents rest)) ∧
  ∀ c : CoreState,
    c.statusWord.getLsbD 0 = c.latch.isSome ∧ c.statusWord.getLsbD 1 = c.error.isSome ∧
    c.statusWord.extractLsb' 2 2 = 0 ∧
    (c.error = none → c.statusWord.extractLsb' 4 4 = 0) ∧
    (∀ (code : ErrorCode) (n : BitVec 4) (w : Word),
      (code, n) ∈ [(.illegal, 1), (.rounds, 2), (.seedLen, 3), (.arg, 4), (.locked, 5), (.notReady, 6),
        (.busy, 7)] →
      c.error = some ⟨code, w⟩ → c.statusWord.extractLsb' 4 4 = n) ∧
    c.statusWord.getLsbD 8 = c.keyV ∧ c.statusWord.getLsbD 9 = c.t1V ∧ c.statusWord.getLsbD 10 = c.t2V ∧
    c.statusWord.getLsbD 11 = c.t3V ∧ c.statusWord.getLsbD 12 = c.run ∧
    c.statusWord.getLsbD 13 = (c.keyV && c.t1V && c.t2V && c.t3V) ∧
    c.statusWord.extractLsb' 14 18 = 0

/-- R33, R34, R42 to R51: what a read of each single register returns while `BUSY` = 0. -/
def Obligations.RegisterReads : Prop :=
  ∀ (s : State) (a : BitVec 12) (v : Word) (rest : List Event), s.env.events = .access (wordRead a) :: rest →
    s.core.latch = none →
    (a, v) ∈ [((0x000 : BitVec 12), (0 : Word)), (0x004, s.core.statusWord), (0x008, (s.core.error.map (·.cmd)).getD 0),
      (0x00C, s.core.rounds.setWidth 32), (0x010, s.core.din.w0), (0x014, s.core.din.w1), (0x018, s.core.din.w2),
      (0x01C, s.core.din.w3), (0x020, s.core.dout0), (0x024, s.core.dout1), (0x028, s.core.ctrLo), (0x02C, 0),
      (0x030, s.core.fastEpoch), (0x034, s.core.slowEpoch), (0x038, 0x534D4B52), (0x040, s.core.kr.w0),
      (0x044, s.core.kr.w1), (0x048, s.core.kr.w2), (0x04C, s.core.kr.w3)] →
    step s = .next ((s.withEvents rest).note v)

/-- R44, R293: a write to `DINk` stores the word, busy or not, and changes nothing else. -/
def Obligations.OperandWrites : Prop :=
  ∀ (s : State) (a : BitVec 12) (v : Word) (q : Quad) (rest : List Event),
    s.env.events = .access (wordWrite a v) :: rest →
    (a, q) ∈ [((0x010 : BitVec 12), { s.core.din with w0 := v }), (0x014, { s.core.din with w1 := v }),
      (0x018, { s.core.din with w2 := v }), (0x01C, { s.core.din with w3 := v })] →
    step s = .next { s.withEvents rest with core := { s.core with din := q } }

/-- 20_memory.md R74: the reserved offsets read 0 and ignore writes, busy or not. -/
def Obligations.ReservedOffsets : Prop :=
  ∀ (s : State) (a : BitVec 12) (v : Word) (rest : List Event), a.toNat % 4 = 0 →
    a.toNat = 0x03C ∨ (0x050 ≤ a.toNat ∧ a.toNat ≤ 0x0FC) ∨ (0x200 ≤ a.toNat ∧ a.toNat ≤ 0x3FC) →
    (s.env.events = .access (wordRead a) :: rest → step s = .next ((s.withEvents rest).note 0)) ∧
    (s.env.events = .access (wordWrite a v) :: rest → step s = .next (s.withEvents rest))

/-- R75: a write to a read-only place has no effect and raises no error, and whatever access the host makes, only the
latch, the error record and `DIN` can change: session state changes only through commands. -/
def Obligations.HostCannotWriteSessionState : Prop :=
  (∀ (s : State) (a : BitVec 12) (v : Word) (rest : List Event), a.toNat % 4 = 0 → a ≠ 0x000 →
    a.toNat < 0x010 ∨ 0x01C < a.toNat → s.env.events = .access (wordWrite a v) :: rest →
    step s = .next (s.withEvents rest)) ∧
  (∀ (s t : State) (a : Access) (rest : List Event), s.env.events = .access a :: rest → step s = .next t →
    t.core = { s.core with latch := t.core.latch, error := t.core.error, din := t.core.din })

/-- R76: a read changes no state of the core and notes one word; while `BUSY` = 0 a second read of the same place notes
the same word. -/
def Obligations.ReadsHaveNoSideEffect : Prop :=
  ∀ (s : State) (a : BitVec 12) (rest : List Event), a.toNat % 4 = 0 →
    s.env.events = .access (wordRead a) :: rest →
    ∃ (t : State) (v : Word), step s = .next t ∧ t.core = s.core ∧ t.env.events = rest ∧
      t.env.noted = v :: s.env.noted ∧
      (s.core.latch = none → t.draws = s.draws ∧
        ∀ rest', step (t.withEvents (.access (wordRead a) :: rest')) = .next ((t.withEvents rest').note v))

/-- R77: the seed window packs four bytes, byte `4w+n` in lane `n`; after `LOAD_SEED w` it reads back `LDIN0`. -/
def Obligations.SeedWindow : Prop :=
  ∀ (s : State) (w : Nat), w ≤ 63 →
    (∀ rest, s.core.latch = none → s.env.events = .access (wordRead (BitVec.ofNat 12 (0x100 + 4 * w))) :: rest →
      ∃ v : Word, step s = .next ((s.withEvents rest).note v) ∧
        ∀ n, n < 4 → v.extractLsb' (8 * n) 8 = Bytes256.entry s.core.seed (BitVec.ofNat 8 (4 * w + n))) ∧
    (∀ l t rest, s.core.latch = some l → exec (.loadSeed w) s = .next t →
      step (t.withEvents (.access (wordRead (BitVec.ofNat 12 (0x100 + 4 * w))) :: rest))
        = .next ((t.withEvents rest).note l.din.w0))

/-- R78: entry `i` of table `n` is at `0x400 n + 4 i`, bits 31:8 reading 0. -/
def Obligations.TableWindows : Prop :=
  ∀ (s : State) (n i : Nat) (T : Bytes256) (rest : List Event), i ≤ 255 →
    (n, T) ∈ [(1, s.core.t1), (2, s.core.t2), (3, s.core.t3)] → s.core.latch = none →
    s.env.events = .access (wordRead (BitVec.ofNat 12 (0x400 * n + 4 * i))) :: rest →
    step s = .next ((s.withEvents rest).note ((Bytes256.entry T (BitVec.ofNat 8 i)).setWidth 32))

/-- 70_reset_and_hazards.md R292: while `BUSY` = 1, `CMD`, `STATUS`, `DIN`, `ID` and the reserved offsets read exactly;
every other place returns a word nothing constrains: the model's free value, drawn anew at each such read (its form is
the model's choice, log entry 3). No read disturbs the command in flight. -/
def Obligations.ReadsWhileBusy : Prop :=
  ∀ (s : State) (a : BitVec 12) (l : Latch) (rest : List Event), a.toNat % 4 = 0 → s.core.latch = some l →
    s.env.events = .access (wordRead a) :: rest →
    step s =
      if a = 0x000 then .next ((s.withEvents rest).note 0)
      else if a = 0x004 then .next ((s.withEvents rest).note s.core.statusWord)
      else if a = 0x010 then .next ((s.withEvents rest).note s.core.din.w0)
      else if a = 0x014 then .next ((s.withEvents rest).note s.core.din.w1)
      else if a = 0x018 then .next ((s.withEvents rest).note s.core.din.w2)
      else if a = 0x01C then .next ((s.withEvents rest).note s.core.din.w3)
      else if a = 0x038 then .next ((s.withEvents rest).note 0x534D4B52)
      else if a.toNat = 0x03C ∨ (0x050 ≤ a.toNat ∧ a.toNat ≤ 0x0FC) ∨ (0x200 ≤ a.toNat ∧ a.toNat ≤ 0x3FC) then
        .next ((s.withEvents rest).note 0)
      else .next { (s.withEvents rest).note (Config.busyRead s.draws) with draws := s.draws + 1 }

/-- R73, R282, R301: an access outside the contract has no step. That the machine refuses it, and under which name, is
the model's choice (log entry 6). -/
def Obligations.AccessesOutsideTheContract : Prop :=
  ∀ (s : State) (a : Access) (rest : List Event),
    (s.env.events = .access a :: rest →
      (a.kind = .readWrite → step s = .refused .readWriteAccess) ∧
      (a.kind ≠ .readWrite → a.width ≠ .word → step s = .refused .narrowAccess) ∧
      (a.kind ≠ .readWrite → a.width = .word → a.addr.toNat % 4 ≠ 0 → step s = .refused .misalignedAccess)) ∧
    (s.env.events = .rst (some a) :: rest → step s = .refused .accessDuringReset)

/-! ## Reset -/

/-- R58, R283: the state after reset, as a host reads it and in the arrays. -/
def Obligations.ResetValues : Prop :=
  State.reset.core.statusWord = 0 ∧ State.reset.core.errCmd = 0 ∧ State.reset.core.rounds = 7 ∧
  State.reset.core.din = ⟨0, 0, 0, 0⟩ ∧ State.reset.core.dout0 = 0 ∧ State.reset.core.dout1 = 0 ∧
  State.reset.core.ctrLo = 0 ∧ State.reset.core.readLocation .ctrHi = 0 ∧ State.reset.core.fastEpoch = 0 ∧
  State.reset.core.slowEpoch = 0 ∧ State.reset.core.kr = ⟨0, 0, 0, 0⟩ ∧ State.reset.core.latch = none ∧
  State.reset.core.readLocation .id = 0x534D4B52 ∧
  ∀ i : Byte, Bytes256.entry State.reset.core.seed i = 0 ∧ Bytes256.entry State.reset.core.t1 i = i ∧
    Bytes256.entry State.reset.core.t2 i = i ∧ Bytes256.entry State.reset.core.t3 i = i

/-- R281, R282: an `RST` edge replaces the core's whole state by the reset state, dropping a command in flight with none
of its effects; a performed `SOFT_RESET` has the same effect on the core. -/
def Obligations.BothResetsAgree : Prop :=
  ∀ (s : State) (rest : List Event),
    (s.env.events = .rst none :: rest → step s = .next { s.withEvents rest with core := State.reset.core }) ∧
    (Performs s .softReset → ∃ t, step s = .next t ∧ t.core = State.reset.core)

/-! ## The whole machine -/

/-- R55, R293: a `DIN` write while a command is in flight does not affect it: it makes no difference to the core whether
the write comes before or after the perform. `SOFT_RESET` alone resets `DIN`, so for it the order shows there. -/
def Obligations.OperandWriteInFlight : Prop :=
  ∀ (s : State) (l : Latch) (i : Instr) (a : BitVec 12) (v : Word) (rest : List Event),
    s.core.latch = some l → decode l.cmd = some i → i ≠ .softReset →
    a = 0x010 ∨ a = 0x014 ∨ a = 0x018 ∨ a = 0x01C →
    ∃ t u w : State,
      step (s.withEvents (.access (wordWrite a v) :: .perform :: rest)) = .next t ∧ step t = .next w ∧
      step (s.withEvents (.perform :: .access (wordWrite a v) :: rest)) = .next u ∧ step u = .next w

/-- R36: only a `CMD` write sets `BUSY`; a command in flight stays until the core's turn or an `RST` edge, which leave
the latch empty; at most one is latched at a time, and a further `CMD` write raises `E_BUSY`. -/
def Obligations.BusyProtocol : Prop :=
  ∀ s t : State, step s = .next t →
    (s.core.latch = none → t.core.latch ≠ none →
      ∃ w rest, Issues s w rest ∧ t.core.latch = some ⟨w, s.core.din⟩) ∧
    (∀ l, s.core.latch = some l →
      (CoreTurn s ∨ ResetEdge s → t.core.latch = none) ∧
      (¬ CoreTurn s → ¬ ResetEdge s → t.core.latch = some l) ∧
      (∀ w rest, Issues s w rest → s.core.error = none → t.core.error = some ⟨.busy, w⟩))

/-- R37, R42, R260: a recorded error is kept until `CLEAR_ERR`, `SOFT_RESET` or `RST` clears it, an error is recorded
only by a `CMD` write, and code and word are 0 whenever `ERR` = 0. -/
def Obligations.ErrorRecordLifetime : Prop :=
  (∀ s t : State, step s = .next t →
    (∀ e, s.core.error = some e →
      t.core.error = some e ∨
      (t.core.error = none ∧ (Performs s .clearErr ∨ Performs s .softReset ∨ ResetEdge s))) ∧
    (s.core.error = none → t.core.error ≠ none → ∃ w rest, Issues s w rest)) ∧
  (∀ c : CoreState, c.err = false → c.errCode = 0 ∧ c.errCmd = 0)

/-- R40: `RUN` is set only by a performed `ENCRYPT_BLOCK` and cleared only by a reset. -/
def Obligations.SessionPhase : Prop :=
  ∀ s t : State, step s = .next t →
    (s.core.run = false → t.core.run = true → Performs s .encryptBlock) ∧
    (s.core.run = true → t.core.run = false → Performs s .softReset ∨ ResetEdge s) ∧
    (Performs s .encryptBlock → t.core.run = true)

/-- R38, R39, R43, R44, R46, R47, R49 to R53: which steps can change which register, resets apart. This is the frame of
every command and of every bus access. -/
def Obligations.WhoWritesWhat : Prop :=
  ∀ s t : State, step s = .next t → ¬ ResetEdge s → ¬ Performs s .softReset →
    (t.core.keyV ≠ s.core.keyV → Performs s .loadKey) ∧
    (t.core.kr ≠ s.core.kr → Performs s .loadKey ∨ Performs s .encryptBlock) ∧
    (t.core.rounds ≠ s.core.rounds → ∃ n, Performs s (.setRounds n)) ∧
    (t.core.seed ≠ s.core.seed → ∃ w, Performs s (.loadSeed w)) ∧
    (t.core.t1V ≠ s.core.t1V → ∃ len, Performs s (.permGen 1 len)) ∧
    (t.core.t2V ≠ s.core.t2V → ∃ len, Performs s (.permGen 2 len)) ∧
    (t.core.t3V ≠ s.core.t3V → ∃ len, Performs s (.permGen 3 len)) ∧
    (t.core.t1 ≠ s.core.t1 → (∃ len, Performs s (.permGen 1 len)) ∨ Performs s .encryptBlock) ∧
    (t.core.t2 ≠ s.core.t2 → (∃ len, Performs s (.permGen 2 len)) ∨ Performs s .encryptBlock) ∧
    (t.core.t3 ≠ s.core.t3 → ∃ len, Performs s (.permGen 3 len)) ∧
    (t.core.dout0 ≠ s.core.dout0 → Performs s .encryptBlock) ∧
    (t.core.dout1 ≠ s.core.dout1 → Performs s .encryptBlock) ∧
    (t.core.ctrLo ≠ s.core.ctrLo → Performs s .encryptBlock) ∧
    (t.core.fastEpoch ≠ s.core.fastEpoch → Performs s .encryptBlock) ∧
    (t.core.slowEpoch ≠ s.core.slowEpoch → Performs s .encryptBlock) ∧
    (t.core.din ≠ s.core.din →
      ∃ a rest, s.env.events = .access a :: rest ∧ a.kind = .write ∧ 0x010 ≤ a.addr.toNat ∧ a.addr.toNat ≤ 0x01C)

/-- R30, R58: the reset state meets the invariant, whatever the host is going to do. -/
def Obligations.ResetMeetsTheInvariant : Prop :=
  ∀ es : List Event, (State.reset.withEvents es).core.Inv

/-- R43, R49, R50, R54, R40, R256: every step from a state that meets the invariant leads to one that meets it. -/
def Obligations.StepKeepsTheInvariant : Prop :=
  ∀ s t : State, s.core.Inv → step s = .next t → t.core.Inv

/-- R54: in every reachable state the three tables are bijections. -/
def Obligations.TablesAreBijections : Prop :=
  ∀ s : State, Reachable s → IsPermutation s.core.t1 ∧ IsPermutation s.core.t2 ∧ IsPermutation s.core.t3

/-- R257, R269, R303; the spec marks R257 as derived. From a state that meets the invariant, a step whose event is inside
the contract always gives a next state, and no step faults (the fault is the model's choice, log entry 5). -/
def Obligations.ContractStepsNeverStop : Prop :=
  ∀ s : State, s.core.Inv →
    ((∀ e rest, s.env.events = e :: rest → e.inContract = true) → ∃ t, step s = .next t) ∧
    (∀ f, step s ≠ .fault f)

/-- R88, R110, R293: one block by the host's own protocol, with any number of polls that still see `BUSY` = 1: the last
two words noted are the ciphertext, and the core is as one performed block leaves it, ready for the next command. The
place of the perform among the events is the schedule of log entry 1. -/
def Obligations.BlockByTheBusProtocol : Prop :=
  ∀ (s : State) (polls : Nat) (p0 p1 : Word), s.core.latch = none → s.core.error = none → s.core.ready = true →
    ∃ t : State,
      Sys2Proof.core.run (hostENC polls p0 p1).length (s.withEvents (hostENC polls p0 p1)) = .next t ∧
      t.env.events = [] ∧ t.core = { encryptOne s.core (p0, p1) with din := { s.core.din with w0 := p0, w1 := p1 } } ∧
      t.env.noted.take 2
        = [(keystreamWords s.core).2 ^^^ p1, (keystreamWords s.core).1 ^^^ p0] ∧
      t.env.noted.length = s.env.noted.length + polls + 3
end

