-- ==== Sys2Proof/Laws/State.lean ====
section
/-! SUPPORT. What each update of the state leaves in each field: one lemma a field an update, so that no later proof
unfolds a record update. -/

namespace Sys2Proof.Machine

@[simp] theorem State.withEvents_core (s : State) (es : List Event) : (s.withEvents es).core = s.core := rfl

@[simp] theorem State.withEvents_events (s : State) (es : List Event) : (s.withEvents es).env.events = es := rfl

@[simp] theorem State.withEvents_noted (s : State) (es : List Event) :
    (s.withEvents es).env.noted = s.env.noted := rfl

@[simp] theorem State.withEvents_draws (s : State) (es : List Event) : (s.withEvents es).draws = s.draws := rfl

@[simp] theorem State.note_core (s : State) (v : Word) : (s.note v).core = s.core := rfl

@[simp] theorem State.note_events (s : State) (v : Word) : (s.note v).env.events = s.env.events := rfl

@[simp] theorem State.note_noted (s : State) (v : Word) : (s.note v).env.noted = v :: s.env.noted := rfl

@[simp] theorem State.note_draws (s : State) (v : Word) : (s.note v).draws = s.draws := rfl

@[simp] theorem CoreState.record_latch (c : CoreState) (code : ErrorCode) (w : Word) :
    (c.record code w).latch = c.latch := rfl

@[simp] theorem CoreState.record_error (c : CoreState) (code : ErrorCode) (w : Word) :
    (c.record code w).error = some ⟨code, w⟩ := rfl

@[simp] theorem CoreState.record_keyV (c : CoreState) (code : ErrorCode) (w : Word) :
    (c.record code w).keyV = c.keyV := rfl

@[simp] theorem CoreState.record_t1V (c : CoreState) (code : ErrorCode) (w : Word) :
    (c.record code w).t1V = c.t1V := rfl

@[simp] theorem CoreState.record_t2V (c : CoreState) (code : ErrorCode) (w : Word) :
    (c.record code w).t2V = c.t2V := rfl

@[simp] theorem CoreState.record_t3V (c : CoreState) (code : ErrorCode) (w : Word) :
    (c.record code w).t3V = c.t3V := rfl

@[simp] theorem CoreState.record_run (c : CoreState) (code : ErrorCode) (w : Word) :
    (c.record code w).run = c.run := rfl

@[simp] theorem CoreState.record_rounds (c : CoreState) (code : ErrorCode) (w : Word) :
    (c.record code w).rounds = c.rounds := rfl

@[simp] theorem CoreState.record_din (c : CoreState) (code : ErrorCode) (w : Word) :
    (c.record code w).din = c.din := rfl

@[simp] theorem CoreState.record_dout0 (c : CoreState) (code : ErrorCode) (w : Word) :
    (c.record code w).dout0 = c.dout0 := rfl

@[simp] theorem CoreState.record_dout1 (c : CoreState) (code : ErrorCode) (w : Word) :
    (c.record code w).dout1 = c.dout1 := rfl

@[simp] theorem CoreState.record_ctrLo (c : CoreState) (code : ErrorCode) (w : Word) :
    (c.record code w).ctrLo = c.ctrLo := rfl

@[simp] theorem CoreState.record_fastEpoch (c : CoreState) (code : ErrorCode) (w : Word) :
    (c.record code w).fastEpoch = c.fastEpoch := rfl

@[simp] theorem CoreState.record_slowEpoch (c : CoreState) (code : ErrorCode) (w : Word) :
    (c.record code w).slowEpoch = c.slowEpoch := rfl

@[simp] theorem CoreState.record_kr (c : CoreState) (code : ErrorCode) (w : Word) :
    (c.record code w).kr = c.kr := rfl

@[simp] theorem CoreState.record_seed (c : CoreState) (code : ErrorCode) (w : Word) :
    (c.record code w).seed = c.seed := rfl

@[simp] theorem CoreState.record_t1 (c : CoreState) (code : ErrorCode) (w : Word) :
    (c.record code w).t1 = c.t1 := rfl

@[simp] theorem CoreState.record_t2 (c : CoreState) (code : ErrorCode) (w : Word) :
    (c.record code w).t2 = c.t2 := rfl

@[simp] theorem CoreState.record_t3 (c : CoreState) (code : ErrorCode) (w : Word) :
    (c.record code w).t3 = c.t3 := rfl

@[simp] theorem CoreState.clearError_latch (c : CoreState) :
    (c.clearError).latch = c.latch := rfl

@[simp] theorem CoreState.clearError_error (c : CoreState) :
    (c.clearError).error = none := rfl

@[simp] theorem CoreState.clearError_keyV (c : CoreState) :
    (c.clearError).keyV = c.keyV := rfl

@[simp] theorem CoreState.clearError_t1V (c : CoreState) :
    (c.clearError).t1V = c.t1V := rfl

@[simp] theorem CoreState.clearError_t2V (c : CoreState) :
    (c.clearError).t2V = c.t2V := rfl

@[simp] theorem CoreState.clearError_t3V (c : CoreState) :
    (c.clearError).t3V = c.t3V := rfl

@[simp] theorem CoreState.clearError_run (c : CoreState) :
    (c.clearError).run = c.run := rfl

@[simp] theorem CoreState.clearError_rounds (c : CoreState) :
    (c.clearError).rounds = c.rounds := rfl

@[simp] theorem CoreState.clearError_din (c : CoreState) :
    (c.clearError).din = c.din := rfl

@[simp] theorem CoreState.clearError_dout0 (c : CoreState) :
    (c.clearError).dout0 = c.dout0 := rfl

@[simp] theorem CoreState.clearError_dout1 (c : CoreState) :
    (c.clearError).dout1 = c.dout1 := rfl

@[simp] theorem CoreState.clearError_ctrLo (c : CoreState) :
    (c.clearError).ctrLo = c.ctrLo := rfl

@[simp] theorem CoreState.clearError_fastEpoch (c : CoreState) :
    (c.clearError).fastEpoch = c.fastEpoch := rfl

@[simp] theorem CoreState.clearError_slowEpoch (c : CoreState) :
    (c.clearError).slowEpoch = c.slowEpoch := rfl

@[simp] theorem CoreState.clearError_kr (c : CoreState) :
    (c.clearError).kr = c.kr := rfl

@[simp] theorem CoreState.clearError_seed (c : CoreState) :
    (c.clearError).seed = c.seed := rfl

@[simp] theorem CoreState.clearError_t1 (c : CoreState) :
    (c.clearError).t1 = c.t1 := rfl

@[simp] theorem CoreState.clearError_t2 (c : CoreState) :
    (c.clearError).t2 = c.t2 := rfl

@[simp] theorem CoreState.clearError_t3 (c : CoreState) :
    (c.clearError).t3 = c.t3 := rfl

@[simp] theorem CoreState.latchCommand_latch (c : CoreState) (w : Word) :
    (c.latchCommand w).latch = some ⟨w, c.din⟩ := rfl

@[simp] theorem CoreState.latchCommand_error (c : CoreState) (w : Word) :
    (c.latchCommand w).error = c.error := rfl

@[simp] theorem CoreState.latchCommand_keyV (c : CoreState) (w : Word) :
    (c.latchCommand w).keyV = c.keyV := rfl

@[simp] theorem CoreState.latchCommand_t1V (c : CoreState) (w : Word) :
    (c.latchCommand w).t1V = c.t1V := rfl

@[simp] theorem CoreState.latchCommand_t2V (c : CoreState) (w : Word) :
    (c.latchCommand w).t2V = c.t2V := rfl

@[simp] theorem CoreState.latchCommand_t3V (c : CoreState) (w : Word) :
    (c.latchCommand w).t3V = c.t3V := rfl

@[simp] theorem CoreState.latchCommand_run (c : CoreState) (w : Word) :
    (c.latchCommand w).run = c.run := rfl

@[simp] theorem CoreState.latchCommand_rounds (c : CoreState) (w : Word) :
    (c.latchCommand w).rounds = c.rounds := rfl

@[simp] theorem CoreState.latchCommand_din (c : CoreState) (w : Word) :
    (c.latchCommand w).din = c.din := rfl

@[simp] theorem CoreState.latchCommand_dout0 (c : CoreState) (w : Word) :
    (c.latchCommand w).dout0 = c.dout0 := rfl

@[simp] theorem CoreState.latchCommand_dout1 (c : CoreState) (w : Word) :
    (c.latchCommand w).dout1 = c.dout1 := rfl

@[simp] theorem CoreState.latchCommand_ctrLo (c : CoreState) (w : Word) :
    (c.latchCommand w).ctrLo = c.ctrLo := rfl

@[simp] theorem CoreState.latchCommand_fastEpoch (c : CoreState) (w : Word) :
    (c.latchCommand w).fastEpoch = c.fastEpoch := rfl

@[simp] theorem CoreState.latchCommand_slowEpoch (c : CoreState) (w : Word) :
    (c.latchCommand w).slowEpoch = c.slowEpoch := rfl

@[simp] theorem CoreState.latchCommand_kr (c : CoreState) (w : Word) :
    (c.latchCommand w).kr = c.kr := rfl

@[simp] theorem CoreState.latchCommand_seed (c : CoreState) (w : Word) :
    (c.latchCommand w).seed = c.seed := rfl

@[simp] theorem CoreState.latchCommand_t1 (c : CoreState) (w : Word) :
    (c.latchCommand w).t1 = c.t1 := rfl

@[simp] theorem CoreState.latchCommand_t2 (c : CoreState) (w : Word) :
    (c.latchCommand w).t2 = c.t2 := rfl

@[simp] theorem CoreState.latchCommand_t3 (c : CoreState) (w : Word) :
    (c.latchCommand w).t3 = c.t3 := rfl

@[simp] theorem CoreState.release_latch (c : CoreState) :
    (c.release).latch = none := rfl

@[simp] theorem CoreState.release_error (c : CoreState) :
    (c.release).error = c.error := rfl

@[simp] theorem CoreState.release_keyV (c : CoreState) :
    (c.release).keyV = c.keyV := rfl

@[simp] theorem CoreState.release_t1V (c : CoreState) :
    (c.release).t1V = c.t1V := rfl

@[simp] theorem CoreState.release_t2V (c : CoreState) :
    (c.release).t2V = c.t2V := rfl

@[simp] theorem CoreState.release_t3V (c : CoreState) :
    (c.release).t3V = c.t3V := rfl

@[simp] theorem CoreState.release_run (c : CoreState) :
    (c.release).run = c.run := rfl

@[simp] theorem CoreState.release_rounds (c : CoreState) :
    (c.release).rounds = c.rounds := rfl

@[simp] theorem CoreState.release_din (c : CoreState) :
    (c.release).din = c.din := rfl

@[simp] theorem CoreState.release_dout0 (c : CoreState) :
    (c.release).dout0 = c.dout0 := rfl

@[simp] theorem CoreState.release_dout1 (c : CoreState) :
    (c.release).dout1 = c.dout1 := rfl

@[simp] theorem CoreState.release_ctrLo (c : CoreState) :
    (c.release).ctrLo = c.ctrLo := rfl

@[simp] theorem CoreState.release_fastEpoch (c : CoreState) :
    (c.release).fastEpoch = c.fastEpoch := rfl

@[simp] theorem CoreState.release_slowEpoch (c : CoreState) :
    (c.release).slowEpoch = c.slowEpoch := rfl

@[simp] theorem CoreState.release_kr (c : CoreState) :
    (c.release).kr = c.kr := rfl

@[simp] theorem CoreState.release_seed (c : CoreState) :
    (c.release).seed = c.seed := rfl

@[simp] theorem CoreState.release_t1 (c : CoreState) :
    (c.release).t1 = c.t1 := rfl

@[simp] theorem CoreState.release_t2 (c : CoreState) :
    (c.release).t2 = c.t2 := rfl

@[simp] theorem CoreState.release_t3 (c : CoreState) :
    (c.release).t3 = c.t3 := rfl

@[simp] theorem CoreState.writeDin_latch (c : CoreState) (k : Fin 4) (v : Word) :
    (c.writeDin k v).latch = c.latch := rfl

@[simp] theorem CoreState.writeDin_error (c : CoreState) (k : Fin 4) (v : Word) :
    (c.writeDin k v).error = c.error := rfl

@[simp] theorem CoreState.writeDin_keyV (c : CoreState) (k : Fin 4) (v : Word) :
    (c.writeDin k v).keyV = c.keyV := rfl

@[simp] theorem CoreState.writeDin_t1V (c : CoreState) (k : Fin 4) (v : Word) :
    (c.writeDin k v).t1V = c.t1V := rfl

@[simp] theorem CoreState.writeDin_t2V (c : CoreState) (k : Fin 4) (v : Word) :
    (c.writeDin k v).t2V = c.t2V := rfl

@[simp] theorem CoreState.writeDin_t3V (c : CoreState) (k : Fin 4) (v : Word) :
    (c.writeDin k v).t3V = c.t3V := rfl

@[simp] theorem CoreState.writeDin_run (c : CoreState) (k : Fin 4) (v : Word) :
    (c.writeDin k v).run = c.run := rfl

@[simp] theorem CoreState.writeDin_rounds (c : CoreState) (k : Fin 4) (v : Word) :
    (c.writeDin k v).rounds = c.rounds := rfl

@[simp] theorem CoreState.writeDin_din (c : CoreState) (k : Fin 4) (v : Word) :
    (c.writeDin k v).din = c.din.put k v := rfl

@[simp] theorem CoreState.writeDin_dout0 (c : CoreState) (k : Fin 4) (v : Word) :
    (c.writeDin k v).dout0 = c.dout0 := rfl

@[simp] theorem CoreState.writeDin_dout1 (c : CoreState) (k : Fin 4) (v : Word) :
    (c.writeDin k v).dout1 = c.dout1 := rfl

@[simp] theorem CoreState.writeDin_ctrLo (c : CoreState) (k : Fin 4) (v : Word) :
    (c.writeDin k v).ctrLo = c.ctrLo := rfl

@[simp] theorem CoreState.writeDin_fastEpoch (c : CoreState) (k : Fin 4) (v : Word) :
    (c.writeDin k v).fastEpoch = c.fastEpoch := rfl

@[simp] theorem CoreState.writeDin_slowEpoch (c : CoreState) (k : Fin 4) (v : Word) :
    (c.writeDin k v).slowEpoch = c.slowEpoch := rfl

@[simp] theorem CoreState.writeDin_kr (c : CoreState) (k : Fin 4) (v : Word) :
    (c.writeDin k v).kr = c.kr := rfl

@[simp] theorem CoreState.writeDin_seed (c : CoreState) (k : Fin 4) (v : Word) :
    (c.writeDin k v).seed = c.seed := rfl

@[simp] theorem CoreState.writeDin_t1 (c : CoreState) (k : Fin 4) (v : Word) :
    (c.writeDin k v).t1 = c.t1 := rfl

@[simp] theorem CoreState.writeDin_t2 (c : CoreState) (k : Fin 4) (v : Word) :
    (c.writeDin k v).t2 = c.t2 := rfl

@[simp] theorem CoreState.writeDin_t3 (c : CoreState) (k : Fin 4) (v : Word) :
    (c.writeDin k v).t3 = c.t3 := rfl

@[simp] theorem performSetRounds_latch (n : Nat) (c : CoreState) :
    (performSetRounds n c).latch = c.latch := rfl

@[simp] theorem performSetRounds_error (n : Nat) (c : CoreState) :
    (performSetRounds n c).error = c.error := rfl

@[simp] theorem performSetRounds_keyV (n : Nat) (c : CoreState) :
    (performSetRounds n c).keyV = c.keyV := rfl

@[simp] theorem performSetRounds_t1V (n : Nat) (c : CoreState) :
    (performSetRounds n c).t1V = c.t1V := rfl

@[simp] theorem performSetRounds_t2V (n : Nat) (c : CoreState) :
    (performSetRounds n c).t2V = c.t2V := rfl

@[simp] theorem performSetRounds_t3V (n : Nat) (c : CoreState) :
    (performSetRounds n c).t3V = c.t3V := rfl

@[simp] theorem performSetRounds_run (n : Nat) (c : CoreState) :
    (performSetRounds n c).run = c.run := rfl

@[simp] theorem performSetRounds_rounds (n : Nat) (c : CoreState) :
    (performSetRounds n c).rounds = BitVec.ofNat 6 n := rfl

@[simp] theorem performSetRounds_din (n : Nat) (c : CoreState) :
    (performSetRounds n c).din = c.din := rfl

@[simp] theorem performSetRounds_dout0 (n : Nat) (c : CoreState) :
    (performSetRounds n c).dout0 = c.dout0 := rfl

@[simp] theorem performSetRounds_dout1 (n : Nat) (c : CoreState) :
    (performSetRounds n c).dout1 = c.dout1 := rfl

@[simp] theorem performSetRounds_ctrLo (n : Nat) (c : CoreState) :
    (performSetRounds n c).ctrLo = c.ctrLo := rfl

@[simp] theorem performSetRounds_fastEpoch (n : Nat) (c : CoreState) :
    (performSetRounds n c).fastEpoch = c.fastEpoch := rfl

@[simp] theorem performSetRounds_slowEpoch (n : Nat) (c : CoreState) :
    (performSetRounds n c).slowEpoch = c.slowEpoch := rfl

@[simp] theorem performSetRounds_kr (n : Nat) (c : CoreState) :
    (performSetRounds n c).kr = c.kr := rfl

@[simp] theorem performSetRounds_seed (n : Nat) (c : CoreState) :
    (performSetRounds n c).seed = c.seed := rfl

@[simp] theorem performSetRounds_t1 (n : Nat) (c : CoreState) :
    (performSetRounds n c).t1 = c.t1 := rfl

@[simp] theorem performSetRounds_t2 (n : Nat) (c : CoreState) :
    (performSetRounds n c).t2 = c.t2 := rfl

@[simp] theorem performSetRounds_t3 (n : Nat) (c : CoreState) :
    (performSetRounds n c).t3 = c.t3 := rfl

@[simp] theorem performLoadKey_latch (l : Latch) (c : CoreState) :
    (performLoadKey l c).latch = c.latch := rfl

@[simp] theorem performLoadKey_error (l : Latch) (c : CoreState) :
    (performLoadKey l c).error = c.error := rfl

@[simp] theorem performLoadKey_keyV (l : Latch) (c : CoreState) :
    (performLoadKey l c).keyV = true := rfl

@[simp] theorem performLoadKey_t1V (l : Latch) (c : CoreState) :
    (performLoadKey l c).t1V = c.t1V := rfl

@[simp] theorem performLoadKey_t2V (l : Latch) (c : CoreState) :
    (performLoadKey l c).t2V = c.t2V := rfl

@[simp] theorem performLoadKey_t3V (l : Latch) (c : CoreState) :
    (performLoadKey l c).t3V = c.t3V := rfl

@[simp] theorem performLoadKey_run (l : Latch) (c : CoreState) :
    (performLoadKey l c).run = c.run := rfl

@[simp] theorem performLoadKey_rounds (l : Latch) (c : CoreState) :
    (performLoadKey l c).rounds = c.rounds := rfl

@[simp] theorem performLoadKey_din (l : Latch) (c : CoreState) :
    (performLoadKey l c).din = c.din := rfl

@[simp] theorem performLoadKey_dout0 (l : Latch) (c : CoreState) :
    (performLoadKey l c).dout0 = c.dout0 := rfl

@[simp] theorem performLoadKey_dout1 (l : Latch) (c : CoreState) :
    (performLoadKey l c).dout1 = c.dout1 := rfl

@[simp] theorem performLoadKey_ctrLo (l : Latch) (c : CoreState) :
    (performLoadKey l c).ctrLo = c.ctrLo := rfl

@[simp] theorem performLoadKey_fastEpoch (l : Latch) (c : CoreState) :
    (performLoadKey l c).fastEpoch = c.fastEpoch := rfl

@[simp] theorem performLoadKey_slowEpoch (l : Latch) (c : CoreState) :
    (performLoadKey l c).slowEpoch = c.slowEpoch := rfl

@[simp] theorem performLoadKey_kr (l : Latch) (c : CoreState) :
    (performLoadKey l c).kr = l.din := rfl

@[simp] theorem performLoadKey_seed (l : Latch) (c : CoreState) :
    (performLoadKey l c).seed = c.seed := rfl

@[simp] theorem performLoadKey_t1 (l : Latch) (c : CoreState) :
    (performLoadKey l c).t1 = c.t1 := rfl

@[simp] theorem performLoadKey_t2 (l : Latch) (c : CoreState) :
    (performLoadKey l c).t2 = c.t2 := rfl

@[simp] theorem performLoadKey_t3 (l : Latch) (c : CoreState) :
    (performLoadKey l c).t3 = c.t3 := rfl

@[simp] theorem performLoadSeed_latch (w : Nat) (l : Latch) (c : CoreState) :
    (performLoadSeed w l c).latch = c.latch := rfl

@[simp] theorem performLoadSeed_error (w : Nat) (l : Latch) (c : CoreState) :
    (performLoadSeed w l c).error = c.error := rfl

@[simp] theorem performLoadSeed_keyV (w : Nat) (l : Latch) (c : CoreState) :
    (performLoadSeed w l c).keyV = c.keyV := rfl

@[simp] theorem performLoadSeed_t1V (w : Nat) (l : Latch) (c : CoreState) :
    (performLoadSeed w l c).t1V = c.t1V := rfl

@[simp] theorem performLoadSeed_t2V (w : Nat) (l : Latch) (c : CoreState) :
    (performLoadSeed w l c).t2V = c.t2V := rfl

@[simp] theorem performLoadSeed_t3V (w : Nat) (l : Latch) (c : CoreState) :
    (performLoadSeed w l c).t3V = c.t3V := rfl

@[simp] theorem performLoadSeed_run (w : Nat) (l : Latch) (c : CoreState) :
    (performLoadSeed w l c).run = c.run := rfl

@[simp] theorem performLoadSeed_rounds (w : Nat) (l : Latch) (c : CoreState) :
    (performLoadSeed w l c).rounds = c.rounds := rfl

@[simp] theorem performLoadSeed_din (w : Nat) (l : Latch) (c : CoreState) :
    (performLoadSeed w l c).din = c.din := rfl

@[simp] theorem performLoadSeed_dout0 (w : Nat) (l : Latch) (c : CoreState) :
    (performLoadSeed w l c).dout0 = c.dout0 := rfl

@[simp] theorem performLoadSeed_dout1 (w : Nat) (l : Latch) (c : CoreState) :
    (performLoadSeed w l c).dout1 = c.dout1 := rfl

@[simp] theorem performLoadSeed_ctrLo (w : Nat) (l : Latch) (c : CoreState) :
    (performLoadSeed w l c).ctrLo = c.ctrLo := rfl

@[simp] theorem performLoadSeed_fastEpoch (w : Nat) (l : Latch) (c : CoreState) :
    (performLoadSeed w l c).fastEpoch = c.fastEpoch := rfl

@[simp] theorem performLoadSeed_slowEpoch (w : Nat) (l : Latch) (c : CoreState) :
    (performLoadSeed w l c).slowEpoch = c.slowEpoch := rfl

@[simp] theorem performLoadSeed_kr (w : Nat) (l : Latch) (c : CoreState) :
    (performLoadSeed w l c).kr = c.kr := rfl

@[simp] theorem performLoadSeed_seed (w : Nat) (l : Latch) (c : CoreState) :
    (performLoadSeed w l c).seed = putSeedWord c.seed w l.din.w0 := rfl

@[simp] theorem performLoadSeed_t1 (w : Nat) (l : Latch) (c : CoreState) :
    (performLoadSeed w l c).t1 = c.t1 := rfl

@[simp] theorem performLoadSeed_t2 (w : Nat) (l : Latch) (c : CoreState) :
    (performLoadSeed w l c).t2 = c.t2 := rfl

@[simp] theorem performLoadSeed_t3 (w : Nat) (l : Latch) (c : CoreState) :
    (performLoadSeed w l c).t3 = c.t3 := rfl

@[simp] theorem CoreState.installTable_latch (c : CoreState) (sel : TableSel) (S : Bytes256) :
    (c.installTable sel S).latch = c.latch := by cases sel <;> rfl

@[simp] theorem CoreState.installTable_error (c : CoreState) (sel : TableSel) (S : Bytes256) :
    (c.installTable sel S).error = c.error := by cases sel <;> rfl

@[simp] theorem CoreState.installTable_keyV (c : CoreState) (sel : TableSel) (S : Bytes256) :
    (c.installTable sel S).keyV = c.keyV := by cases sel <;> rfl

@[simp] theorem CoreState.installTable_t1V (c : CoreState) (sel : TableSel) (S : Bytes256) :
    (c.installTable sel S).t1V = if sel = .t1 then true else c.t1V := by cases sel <;> rfl

@[simp] theorem CoreState.installTable_t2V (c : CoreState) (sel : TableSel) (S : Bytes256) :
    (c.installTable sel S).t2V = if sel = .t2 then true else c.t2V := by cases sel <;> rfl

@[simp] theorem CoreState.installTable_t3V (c : CoreState) (sel : TableSel) (S : Bytes256) :
    (c.installTable sel S).t3V = if sel = .t3 then true else c.t3V := by cases sel <;> rfl

@[simp] theorem CoreState.installTable_run (c : CoreState) (sel : TableSel) (S : Bytes256) :
    (c.installTable sel S).run = c.run := by cases sel <;> rfl

@[simp] theorem CoreState.installTable_rounds (c : CoreState) (sel : TableSel) (S : Bytes256) :
    (c.installTable sel S).rounds = c.rounds := by cases sel <;> rfl

@[simp] theorem CoreState.installTable_din (c : CoreState) (sel : TableSel) (S : Bytes256) :
    (c.installTable sel S).din = c.din := by cases sel <;> rfl

@[simp] theorem CoreState.installTable_dout0 (c : CoreState) (sel : TableSel) (S : Bytes256) :
    (c.installTable sel S).dout0 = c.dout0 := by cases sel <;> rfl

@[simp] theorem CoreState.installTable_dout1 (c : CoreState) (sel : TableSel) (S : Bytes256) :
    (c.installTable sel S).dout1 = c.dout1 := by cases sel <;> rfl

@[simp] theorem CoreState.installTable_ctrLo (c : CoreState) (sel : TableSel) (S : Bytes256) :
    (c.installTable sel S).ctrLo = c.ctrLo := by cases sel <;> rfl

@[simp] theorem CoreState.installTable_fastEpoch (c : CoreState) (sel : TableSel) (S : Bytes256) :
    (c.installTable sel S).fastEpoch = c.fastEpoch := by cases sel <;> rfl

@[simp] theorem CoreState.installTable_slowEpoch (c : CoreState) (sel : TableSel) (S : Bytes256) :
    (c.installTable sel S).slowEpoch = c.slowEpoch := by cases sel <;> rfl

@[simp] theorem CoreState.installTable_kr (c : CoreState) (sel : TableSel) (S : Bytes256) :
    (c.installTable sel S).kr = c.kr := by cases sel <;> rfl

@[simp] theorem CoreState.installTable_seed (c : CoreState) (sel : TableSel) (S : Bytes256) :
    (c.installTable sel S).seed = c.seed := by cases sel <;> rfl

@[simp] theorem CoreState.installTable_t1 (c : CoreState) (sel : TableSel) (S : Bytes256) :
    (c.installTable sel S).t1 = if sel = .t1 then S else c.t1 := by cases sel <;> rfl

@[simp] theorem CoreState.installTable_t2 (c : CoreState) (sel : TableSel) (S : Bytes256) :
    (c.installTable sel S).t2 = if sel = .t2 then S else c.t2 := by cases sel <;> rfl

@[simp] theorem CoreState.installTable_t3 (c : CoreState) (sel : TableSel) (S : Bytes256) :
    (c.installTable sel S).t3 = if sel = .t3 then S else c.t3 := by cases sel <;> rfl

/-- The fast half of step 7 as one record. -/
theorem fastEpochStep_eq (c : CoreState) :
    fastEpochStep c =
      { c with
        fastEpoch := if c.fastEpoch + 1 = 2000 then 0 else c.fastEpoch + 1
        t1 := if c.fastEpoch + 1 = 2000 then age c.t1 c.t2 else c.t1 } := by
  have h : BitVec.ofNat 32 Config.fastPeriod = 2000 := rfl
  rw [fastEpochStep, h]
  split <;> rfl

/-- The slow half of step 7 as one record. -/
theorem slowEpochStep_eq (c : CoreState) :
    slowEpochStep c =
      { c with
        slowEpoch := if c.slowEpoch + 1 = 4000000 then 0 else c.slowEpoch + 1
        t2 := if c.slowEpoch + 1 = 4000000 then age c.t2 c.t3 else c.t2 } := by
  have h : BitVec.ofNat 32 Config.slowPeriod = 4000000 := rfl
  rw [slowEpochStep, h]
  split <;> rfl

/-- The perform of `ENCRYPT_BLOCK` as one record. -/
theorem performEncryptBlock_eq (l : Latch) (c : CoreState) :
    performEncryptBlock l c =
      { c with
        kr := (blockOutput c).2
        ctrLo := c.ctrLo + 1
        dout0 := (keystreamWords c).1 ^^^ l.din.w0
        dout1 := (keystreamWords c).2 ^^^ l.din.w1
        run := true
        fastEpoch := if c.fastEpoch + 1 = 2000 then 0 else c.fastEpoch + 1
        t1 := if c.fastEpoch + 1 = 2000 then age c.t1 c.t2 else c.t1
        slowEpoch := if c.slowEpoch + 1 = 4000000 then 0 else c.slowEpoch + 1
        t2 := if c.slowEpoch + 1 = 4000000 then age c.t2 c.t3 else c.t2 } := by
  rw [performEncryptBlock, epochsAndAging, fastEpochStep_eq, slowEpochStep_eq]

@[simp] theorem performEncryptBlock_latch (l : Latch) (c : CoreState) :
    (performEncryptBlock l c).latch = c.latch := by rw [performEncryptBlock_eq]

@[simp] theorem performEncryptBlock_error (l : Latch) (c : CoreState) :
    (performEncryptBlock l c).error = c.error := by rw [performEncryptBlock_eq]

@[simp] theorem performEncryptBlock_keyV (l : Latch) (c : CoreState) :
    (performEncryptBlock l c).keyV = c.keyV := by rw [performEncryptBlock_eq]

@[simp] theorem performEncryptBlock_t1V (l : Latch) (c : CoreState) :
    (performEncryptBlock l c).t1V = c.t1V := by rw [performEncryptBlock_eq]

@[simp] theorem performEncryptBlock_t2V (l : Latch) (c : CoreState) :
    (performEncryptBlock l c).t2V = c.t2V := by rw [performEncryptBlock_eq]

@[simp] theorem performEncryptBlock_t3V (l : Latch) (c : CoreState) :
    (performEncryptBlock l c).t3V = c.t3V := by rw [performEncryptBlock_eq]

@[simp] theorem performEncryptBlock_run (l : Latch) (c : CoreState) :
    (performEncryptBlock l c).run = true := by rw [performEncryptBlock_eq]

@[simp] theorem performEncryptBlock_rounds (l : Latch) (c : CoreState) :
    (performEncryptBlock l c).rounds = c.rounds := by rw [performEncryptBlock_eq]

@[simp] theorem performEncryptBlock_din (l : Latch) (c : CoreState) :
    (performEncryptBlock l c).din = c.din := by rw [performEncryptBlock_eq]

@[simp] theorem performEncryptBlock_dout0 (l : Latch) (c : CoreState) :
    (performEncryptBlock l c).dout0 = (keystreamWords c).1 ^^^ l.din.w0 := by rw [performEncryptBlock_eq]

@[simp] theorem performEncryptBlock_dout1 (l : Latch) (c : CoreState) :
    (performEncryptBlock l c).dout1 = (keystreamWords c).2 ^^^ l.din.w1 := by rw [performEncryptBlock_eq]

@[simp] theorem performEncryptBlock_ctrLo (l : Latch) (c : CoreState) :
    (performEncryptBlock l c).ctrLo = c.ctrLo + 1 := by rw [performEncryptBlock_eq]

@[simp] theorem performEncryptBlock_fastEpoch (l : Latch) (c : CoreState) :
    (performEncryptBlock l c).fastEpoch = if c.fastEpoch + 1 = 2000 then 0 else c.fastEpoch + 1 := by rw [performEncryptBlock_eq]

@[simp] theorem performEncryptBlock_slowEpoch (l : Latch) (c : CoreState) :
    (performEncryptBlock l c).slowEpoch = if c.slowEpoch + 1 = 4000000 then 0 else c.slowEpoch + 1 := by rw [performEncryptBlock_eq]

@[simp] theorem performEncryptBlock_kr (l : Latch) (c : CoreState) :
    (performEncryptBlock l c).kr = (blockOutput c).2 := by rw [performEncryptBlock_eq]

@[simp] theorem performEncryptBlock_seed (l : Latch) (c : CoreState) :
    (performEncryptBlock l c).seed = c.seed := by rw [performEncryptBlock_eq]

@[simp] theorem performEncryptBlock_t1 (l : Latch) (c : CoreState) :
    (performEncryptBlock l c).t1 = if c.fastEpoch + 1 = 2000 then age c.t1 c.t2 else c.t1 := by rw [performEncryptBlock_eq]

@[simp] theorem performEncryptBlock_t2 (l : Latch) (c : CoreState) :
    (performEncryptBlock l c).t2 = if c.slowEpoch + 1 = 4000000 then age c.t2 c.t3 else c.t2 := by rw [performEncryptBlock_eq]

@[simp] theorem performEncryptBlock_t3 (l : Latch) (c : CoreState) :
    (performEncryptBlock l c).t3 = c.t3 := by rw [performEncryptBlock_eq]

end Sys2Proof.Machine
end

