-- ==== Sys2Proof/Laws/Bytes.lean ====
section
/-! SUPPORT. The byte arrays: what each operation leaves in each entry. Claims about tables go through these and never
unfold the vector. -/

namespace Sys2Proof.Machine

/-- Arrays with the same entries are equal. -/
theorem bytes_ext {T S : Bytes256} (h : ∀ i, Bytes256.entry T i = Bytes256.entry S i) : T = S := by
  apply Vector.ext
  intro i hi
  have h' := h (BitVec.ofNat 8 i)
  have hm : (BitVec.ofNat 8 i).toNat = i := by simp [Nat.mod_eq_of_lt hi]
  simpa [Bytes256.entry, hm] using h'

theorem entry_put (T : Bytes256) (i j v : Byte) :
    Bytes256.entry (Bytes256.put T i v) j = if j = i then v else Bytes256.entry T j := by
  by_cases h : j = i
  · subst h; simp [Bytes256.entry, Bytes256.put]
  · have hn : i.toNat ≠ j.toNat := fun e => h (BitVec.eq_of_toNat_eq e.symm)
    simp [Bytes256.entry, Bytes256.put, h, Vector.getElem_set_ne, hn]

@[simp] theorem entry_put_same (T : Bytes256) (i v : Byte) : Bytes256.entry (Bytes256.put T i v) i = v := by
  simp [entry_put]

theorem entry_put_ne (T : Bytes256) {i j : Byte} (v : Byte) (h : j ≠ i) :
    Bytes256.entry (Bytes256.put T i v) j = Bytes256.entry T j := by
  simp [entry_put, h]

/-- An exchange read through the swap of its two indices. -/
theorem entry_exchange (T : Bytes256) (i j k : Byte) :
    Bytes256.entry (Bytes256.exchange T i j) k
      = if k = j then Bytes256.entry T i else if k = i then Bytes256.entry T j else Bytes256.entry T k := by
  simp [Bytes256.exchange, entry_put]

@[simp] theorem entry_mapEntries (T : Bytes256) (f : Byte → Byte) (i : Byte) :
    Bytes256.entry (Bytes256.mapEntries T f) i = f (Bytes256.entry T i) := by
  simp [Bytes256.entry, Bytes256.mapEntries]

@[simp] theorem entry_identityTable (i : Byte) : Bytes256.entry identityTable i = i := by
  simp [Bytes256.entry, identityTable]

@[simp] theorem entry_seed_reset (i : Byte) : Bytes256.entry CoreState.reset.seed i = 0 := by
  simp [Bytes256.entry, CoreState.reset]

end Sys2Proof.Machine
end

