-- ==== Sys2Proof/Laws/Decode.lean ====
section
/-! SUPPORT. The fields of a packed word, and the decoder as a chain of tests on the fields. -/

namespace Sys2Proof

/-- Every bit of a packed word. -/
theorem getLsbD_pack (op : Byte) (a b i : Nat) :
    (pack op a b).getLsbD i =
      if i < 8 then op.getLsbD i
      else if i < 16 then (BitVec.ofNat 8 a).getLsbD (i - 8)
      else (BitVec.ofNat 9 b).getLsbD (i - 16) := by
  show (0#7 ++ BitVec.ofNat 9 b ++ BitVec.ofNat 8 a ++ op : BitVec (7 + 9 + 8 + 8)).getLsbD i = _
  rw [BitVec.getLsbD_append, BitVec.getLsbD_append, BitVec.getLsbD_append]
  by_cases h1 : i < 8
  · simp [h1]
  · by_cases h2 : i < 16
    · have h3 : i - 8 < 8 := by omega
      simp [h1, h2, h3]
    · have h3 : ¬ i - 8 < 8 := by omega
      have h4 : i - 8 - 8 = i - 16 := by omega
      by_cases h5 : i - 16 < 9
      · simp [h1, h2, h3, h4, h5]
      · have h6 := BitVec.getLsbD_of_ge (BitVec.ofNat 9 b) (i - 16) (by omega)
        simp [h1, h2, h3, h4, h5, h6]

@[simp] theorem opField_pack (op : Byte) (a b : Nat) : opField (pack op a b) = op := by
  apply BitVec.eq_of_getLsbD_eq
  intro i hi
  simp [opField, getLsbD_pack, hi]

theorem argA_pack (op : Byte) {a : Nat} (b : Nat) (h : a < 2 ^ 8) : argA (pack op a b) = a := by
  have e : (pack op a b).extractLsb' 8 8 = BitVec.ofNat 8 a := by
    apply BitVec.eq_of_getLsbD_eq
    intro i hi
    have h2 : 8 + i < 16 := by omega
    simp [getLsbD_pack, hi, h2]
  rw [argA, e, BitVec.toNat_ofNat, Nat.mod_eq_of_lt h]

theorem argB_pack (op : Byte) (a : Nat) {b : Nat} (h : b < 2 ^ 9) : argB (pack op a b) = b := by
  have e : (pack op a b).extractLsb' 16 9 = BitVec.ofNat 9 b := by
    apply BitVec.eq_of_getLsbD_eq
    intro i hi
    have h1 : ¬ 16 + i < 8 := by omega
    simp [getLsbD_pack, hi, h1]
  rw [argB, e, BitVec.toNat_ofNat, Nat.mod_eq_of_lt h]

@[simp] theorem rsvField_pack (op : Byte) (a b : Nat) : rsvField (pack op a b) = 0 := by
  apply BitVec.eq_of_getLsbD_eq
  intro i hi
  have h1 : ¬ 25 + i < 8 := by omega
  have h2 : ¬ 25 + i < 16 := by omega
  have h3 : 25 + i - 16 = 9 + i := by omega
  simp [rsvField, getLsbD_pack, h1, h2, h3]

/-- A word is determined by its four fields. -/
theorem eq_of_fields {w v : Word} (ho : opField w = opField v) (ha : argA w = argA v) (hb : argB w = argB v)
    (hr : rsvField w = rsvField v) : w = v := by
  have ha' : w.extractLsb' 8 8 = v.extractLsb' 8 8 := BitVec.eq_of_toNat_eq ha
  have hb' : w.extractLsb' 16 9 = v.extractLsb' 16 9 := BitVec.eq_of_toNat_eq hb
  apply BitVec.eq_of_getLsbD_eq
  intro i hi
  by_cases h1 : i < 8
  · have := congrArg (fun x => x.getLsbD i) ho
    simpa [opField, h1] using this
  by_cases h2 : i < 16
  · have := congrArg (fun x => x.getLsbD (i - 8)) ha'
    have h3 : i - 8 < 8 := by omega
    have h4 : 8 + (i - 8) = i := by omega
    simpa [h3, h4] using this
  by_cases h3 : i < 25
  · have := congrArg (fun x => x.getLsbD (i - 16)) hb'
    have h4 : i - 16 < 9 := by omega
    have h5 : 16 + (i - 16) = i := by omega
    simpa [h4, h5] using this
  · have := congrArg (fun x => x.getLsbD (i - 25)) hr
    have h4 : i - 25 < 7 := by omega
    have h5 : 25 + (i - 25) = i := by omega
    simpa [rsvField, h4, h5] using this

theorem argA_lt (w : Word) : argA w < 2 ^ 8 := (w.extractLsb' 8 8).isLt

theorem argB_lt (w : Word) : argB w < 2 ^ 9 := (w.extractLsb' 16 9).isLt

theorem fields_iff (w v : Word) :
    w = v ↔ opField w = opField v ∧ argA w = argA v ∧ argB w = argB v ∧ rsvField w = rsvField v :=
  ⟨fun h => by subst h; simp, fun ⟨ho, ha, hb, hr⟩ => eq_of_fields ho ha hb hr⟩

theorem opField_and (w m : Word) : opField (w &&& m) = opField w &&& opField m := by
  simp [opField, BitVec.extractLsb'_and]

theorem rsvField_and (w m : Word) : rsvField (w &&& m) = rsvField w &&& rsvField m := by
  simp [rsvField, BitVec.extractLsb'_and]

theorem argA_and (w m : Word) : argA (w &&& m) = argA w &&& argA m := by
  simp [argA, BitVec.extractLsb'_and]

theorem argB_and (w m : Word) : argB (w &&& m) = argB w &&& argB m := by
  simp [argB, BitVec.extractLsb'_and]

/-- A row without arguments matches one word. -/
theorem mask_none (w c : Word) : w &&& 0xFFFFFFFF = c
    ↔ opField w = opField c ∧ argA w = argA c ∧ argB w = argB c ∧ rsvField w = rsvField c := by
  have h : (0xFFFFFFFF : Word) = BitVec.allOnes 32 := by decide
  rw [h, BitVec.and_allOnes, fields_iff]

/-- A row with the argument `A` tests the other three fields. -/
theorem mask_argA (w : Word) {c : Word} (hc : argA c = 0) : w &&& 0xFFFF00FF = c
    ↔ opField w = opField c ∧ argB w = argB c ∧ rsvField w = rsvField c := by
  have h1 : opField 0xFFFF00FF = BitVec.allOnes 8 := by decide
  have h2 : argA 0xFFFF00FF = 0 := by decide
  have h3 : argB 0xFFFF00FF = 2 ^ 9 - 1 := by decide
  have h4 : rsvField 0xFFFF00FF = BitVec.allOnes 7 := by decide
  rw [fields_iff, opField_and, argA_and, argB_and, rsvField_and, hc, h1, h2, h3, h4, BitVec.and_allOnes,
    BitVec.and_allOnes, Nat.and_two_pow_sub_one_eq_mod, Nat.mod_eq_of_lt (argB_lt w)]
  simp

/-- A row with both arguments tests the opcode and the reserved field. -/
theorem mask_argAB (w : Word) {c : Word} (ha : argA c = 0) (hb : argB c = 0) : w &&& 0xFE0000FF = c
    ↔ opField w = opField c ∧ rsvField w = rsvField c := by
  have h1 : opField 0xFE0000FF = BitVec.allOnes 8 := by decide
  have h2 : argA 0xFE0000FF = 0 := by decide
  have h3 : argB 0xFE0000FF = 0 := by decide
  have h4 : rsvField 0xFE0000FF = BitVec.allOnes 7 := by decide
  rw [fields_iff, opField_and, argA_and, argB_and, rsvField_and, ha, hb, h1, h2, h3, h4, BitVec.and_allOnes,
    BitVec.and_allOnes]
  simp

/-- One row of the opcode map. -/
theorem decode_row (r : OpcodeRow) (rows : List OpcodeRow) (w : Word) :
    ((r :: rows).find? (·.matchesWord w)).map (·.name.instr w)
      = if w &&& r.mask = r.bits then some (r.name.instr w)
        else (rows.find? (·.matchesWord w)).map (·.name.instr w) := by
  by_cases h : w &&& r.mask = r.bits
  · simp [OpcodeRow.matchesWord, h]
  · rw [List.find?_cons_of_neg (by simpa [OpcodeRow.matchesWord] using h), if_neg h]

/-- The decoder as a chain of tests on the four fields, one a row of R104. -/
theorem decode_fields (w : Word) :
    decode w =
      if opField w = 0x00 ∧ argA w = 0 ∧ argB w = 0 ∧ rsvField w = 0 then some .nop
      else if opField w = 0x01 ∧ argA w = 0 ∧ argB w = 0 ∧ rsvField w = 0 then some .softReset
      else if opField w = 0x02 ∧ argA w = 0 ∧ argB w = 0 ∧ rsvField w = 0 then some .clearErr
      else if opField w = 0x10 ∧ argB w = 0 ∧ rsvField w = 0 then some (.setRounds (argA w))
      else if opField w = 0x11 ∧ argA w = 0 ∧ argB w = 0 ∧ rsvField w = 0 then some .loadKey
      else if opField w = 0x12 ∧ argB w = 0 ∧ rsvField w = 0 then some (.loadSeed (argA w))
      else if opField w = 0x13 ∧ rsvField w = 0 then some (.permGen (argA w) (argB w))
      else if opField w = 0x20 ∧ argA w = 0 ∧ argB w = 0 ∧ rsvField w = 0 then some .encryptBlock
      else none := by
  have full : ∀ (c : Word) (op : Byte), opField c = op ∧ argA c = 0 ∧ argB c = 0 ∧ rsvField c = 0 →
      (w &&& 0xFFFFFFFF = c ↔ opField w = op ∧ argA w = 0 ∧ argB w = 0 ∧ rsvField w = 0) := by
    rintro c op ⟨rfl, ha, hb, hr⟩
    rw [mask_none, ha, hb, hr]
  have f10 := mask_argA w (c := 0x10) (by decide)
  have f12 := mask_argA w (c := 0x12) (by decide)
  have f13 := mask_argAB w (c := 0x13) (by decide) (by decide)
  rw [show argB 0x10 = 0 by decide, show rsvField 0x10 = 0 by decide, show opField 0x10 = 0x10 by decide] at f10
  rw [show argB 0x12 = 0 by decide, show rsvField 0x12 = 0 by decide, show opField 0x12 = 0x12 by decide] at f12
  rw [show rsvField 0x13 = 0 by decide, show opField 0x13 = 0x13 by decide] at f13
  unfold decode opcodeMap
  iterate 8 rw [decode_row]
  simp only [full 0x00 0x00 (by decide), full 0x01 0x01 (by decide), full 0x02 0x02 (by decide),
    full 0x11 0x11 (by decide), full 0x20 0x20 (by decide), f10, f12, f13, Mnemonic.instr, List.find?_nil,
    Option.map_none]

/-- A packed word as the shifts and ORs of 41_permutation.md R152. -/
theorem pack_or (op : Byte) {a b : Nat} (ha : a < 256) (hb : b < 512) :
    pack op a b = op.setWidth 32 ||| (BitVec.ofNat 32 a <<< 8) ||| (BitVec.ofNat 32 b <<< 16) := by
  have ta : ∀ j, 8 ≤ j → a.testBit j = false := fun j hj =>
    Nat.testBit_lt_two_pow (Nat.lt_of_lt_of_le ha (Nat.pow_le_pow_right (by decide) hj : 2 ^ 8 ≤ 2 ^ j))
  have tb : ∀ j, 9 ≤ j → b.testBit j = false := fun j hj =>
    Nat.testBit_lt_two_pow (Nat.lt_of_lt_of_le hb (Nat.pow_le_pow_right (by decide) hj : 2 ^ 9 ≤ 2 ^ j))
  apply BitVec.eq_of_getLsbD_eq
  intro i hi
  rw [getLsbD_pack]
  simp only [BitVec.getLsbD_or, BitVec.getLsbD_setWidth, BitVec.getLsbD_shiftLeft, BitVec.getLsbD_ofNat, hi,
    decide_true, Bool.true_and]
  by_cases h1 : i < 8
  · have : i < 16 := by omega
    simp [h1, this]
  · have h0 := BitVec.getLsbD_of_ge op i (by omega)
    have h32 : i - 8 < 32 := by omega
    by_cases h2 : i < 16
    · have : i - 8 < 8 := by omega
      simp [h1, h2, h0, this, h32]
    · have h3 := ta (i - 8) (by omega)
      have h4 : i - 16 < 32 := by omega
      by_cases h5 : i - 16 < 9
      · simp [h1, h2, h0, h3, h4, h5]
      · simp [h1, h2, h0, h3, h4, h5, tb (i - 16) (by omega)]

end Sys2Proof
end

