-- ==== Sys2Proof/Laws/Ops.lean ====
section
/-! SUPPORT. The shared operations: everything `runCommand`, the issue operations and `exec` can do, said once. -/

namespace Sys2Proof.Machine

theorem runCommand_idle (issue : CoreState → CoreState) (perform : Latch → CoreState → CoreState) {s : State}
    (h : s.core.latch = none) : runCommand issue perform s = .next { s with core := issue s.core } := by
  simp [runCommand, h]

theorem runCommand_latched (issue : CoreState → CoreState) (perform : Latch → CoreState → CoreState) {s : State}
    {l : Latch} (h : s.core.latch = some l) :
    runCommand issue perform s = .next { s with core := (perform l s.core).release } := by
  simp [runCommand, h]

theorem issueUnlessError_error {c : CoreState} {e : ErrorRecord} (h : c.error = some e) (w : Word)
    (check : Option ErrorCode) : c.issueUnlessError w check = c := by
  simp [CoreState.issueUnlessError, h]

theorem issueUnlessError_clear {c : CoreState} (h : c.error = none) (w : Word) (check : Option ErrorCode) :
    c.issueUnlessError w check = c.issueChecked w check := by
  simp [CoreState.issueUnlessError, h]

@[simp] theorem issueChecked_some (c : CoreState) (w : Word) (e : ErrorCode) :
    c.issueChecked w (some e) = c.record e w := rfl

@[simp] theorem issueChecked_none (c : CoreState) (w : Word) : c.issueChecked w none = c.latchCommand w := rfl

/-- The issue phase of each command. -/
def issueOf (i : Instr) (c : CoreState) : CoreState :=
  match i with
  | .nop => c.issueUnlessError (encode .nop) none
  | .softReset => c.issueChecked (encode .softReset) none
  | .clearErr => c.issueChecked (encode .clearErr) none
  | .setRounds n => c.issueUnlessError (encode (.setRounds n)) (checkSetRounds n c)
  | .loadKey => c.issueUnlessError (encode .loadKey) (checkLoadKey c)
  | .loadSeed w => c.issueUnlessError (encode (.loadSeed w)) (checkLoadSeed w c)
  | .permGen t len => c.issueUnlessError (encode (.permGen t len)) (checkPermGen t len c)
  | .encryptBlock => c.issueUnlessError (encode .encryptBlock) (checkEncryptBlock c)

/-- The perform of each command, before `BUSY` falls. -/
def performOf (i : Instr) (l : Latch) (c : CoreState) : CoreState :=
  match i with
  | .nop => c
  | .softReset => CoreState.reset
  | .clearErr => c.clearError
  | .setRounds n => performSetRounds n c
  | .loadKey => performLoadKey l c
  | .loadSeed w => performLoadSeed w l c
  | .permGen t len => performPermGen t len c
  | .encryptBlock => performEncryptBlock l c

/-- Every command is its two phases. -/
theorem exec_eq (i : Instr) (s : State) : exec i s = runCommand (issueOf i) (performOf i) s := by
  cases i <;> rfl

/-- Every command in its issue phase. -/
theorem exec_idle (i : Instr) {s : State} (h : s.core.latch = none) :
    exec i s = .next { s with core := issueOf i s.core } := by
  rw [exec_eq, runCommand_idle _ _ h]

/-- Every command in its perform phase. -/
theorem exec_latched (i : Instr) {s : State} {l : Latch} (h : s.core.latch = some l) :
    exec i s = .next { s with core := (performOf i l s.core).release } := by
  rw [exec_eq, runCommand_latched _ _ h]

/-- Everything an issue phase can do: nothing, record an error where there was none, or latch the command. -/
theorem issueOf_cases (i : Instr) (c : CoreState) :
    (issueOf i c = c ∧ c.error ≠ none) ∨ (c.error = none ∧ ∃ code, issueOf i c = c.record code (encode i))
      ∨ issueOf i c = c.latchCommand (encode i) := by
  have key : ∀ (w : Word) (check : Option ErrorCode),
      (c.issueUnlessError w check = c ∧ c.error ≠ none)
        ∨ (c.error = none ∧ ∃ code, c.issueUnlessError w check = c.record code w)
        ∨ c.issueUnlessError w check = c.latchCommand w := by
    intro w check
    cases he : c.error with
    | some e => exact .inl ⟨issueUnlessError_error he w check, by simp⟩
    | none =>
      cases check with
      | some code => exact .inr (.inl ⟨rfl, code, issueUnlessError_clear he w _⟩)
      | none => exact .inr (.inr (issueUnlessError_clear he w _))
  cases i with
  | softReset => exact .inr (.inr rfl)
  | clearErr => exact .inr (.inr rfl)
  | nop => exact key _ _
  | setRounds n => exact key _ _
  | loadKey => exact key _ _
  | loadSeed w => exact key _ _
  | permGen t len => exact key _ _
  | encryptBlock => exact key _ _

theorem performPermGen_sel {t : Nat} {sel : TableSel} (h : tableSel t = some sel) (len : Nat) (c : CoreState) :
    performPermGen t len c = c.installTable sel (permGen c.seed len) := by
  simp [performPermGen, h]

theorem performPermGen_none {t : Nat} (h : tableSel t = none) (len : Nat) (c : CoreState) :
    performPermGen t len c = c := by
  simp [performPermGen, h]

end Sys2Proof.Machine
end

