-- ==== Sys2Proof/Laws/Step.lean ====
section
/-! SUPPORT. The step: one equation a kind of event, and what an access can do to the core. -/

namespace Sys2Proof.Machine

theorem step_no_events {s : State} (h : s.env.events = []) : step s = s.coreTurn := by
  simp [step, h]

theorem step_event {s : State} {e : Event} {rest : List Event} (h : s.env.events = e :: rest) :
    step s = (s.withEvents rest).takeEvent e := by
  simp [step, h]

@[simp] theorem takeEvent_perform (s : State) : s.takeEvent .perform = s.coreTurn := rfl

@[simp] theorem takeEvent_rst (s : State) : s.takeEvent (.rst none) = .next { s with core := CoreState.reset } := rfl

@[simp] theorem takeEvent_rst_access (s : State) (a : Access) :
    s.takeEvent (.rst (some a)) = .refused .accessDuringReset := rfl

/-- A write to `CMD` issues. -/
theorem takeEvent_cmdWrite (s : State) (w : Word) : s.takeEvent (.access (cmdWrite w)) = s.issue w := rfl

/-- An aligned word read is a bus read. -/
theorem takeEvent_wordRead (s : State) {a : BitVec 12} (h : a.toNat % 4 = 0) :
    s.takeEvent (.access (wordRead a)) = .next (s.busRead a) := by
  simp [State.takeEvent, State.takeAccess, Access.outside, wordRead, h]

/-- An aligned word write is a bus write. -/
theorem takeEvent_wordWrite (s : State) {a : BitVec 12} (v : Word) (h : a.toNat % 4 = 0) :
    s.takeEvent (.access (wordWrite a v)) = s.busWrite a v := by
  simp [State.takeEvent, State.takeAccess, Access.outside, wordWrite, h]

theorem coreTurn_idle {s : State} (h : s.core.latch = none) : s.coreTurn = .next s := by
  simp [State.coreTurn, h]

theorem coreTurn_latched {s : State} {l : Latch} {i : Instr} (h : s.core.latch = some l)
    (hd : decode l.cmd = some i) : s.coreTurn = exec i s := by
  simp [State.coreTurn, h, hd]

theorem issue_busy {s : State} {l : Latch} (h : s.core.latch = some l) (w : Word) :
    s.issue w = .next { s with core := s.core.issueWhileBusy w } := by
  simp [State.issue, h]

theorem issue_illegal {s : State} {w : Word} (h : s.core.latch = none) (hd : decode w = none) :
    s.issue w = .next { s with core := s.core.issueIllegal w } := by
  simp [State.issue, h, hd]

theorem issue_command {s : State} {w : Word} {i : Instr} (h : s.core.latch = none) (hd : decode w = some i) :
    s.issue w = exec i s := by
  simp [State.issue, h, hd]

/-- A read leaves the core as it was. -/
@[simp] theorem busRead_core (s : State) (a : BitVec 12) : (s.busRead a).core = s.core := by
  unfold State.busRead; split <;> rfl

@[simp] theorem busRead_events (s : State) (a : BitVec 12) : (s.busRead a).env.events = s.env.events := by
  unfold State.busRead; split <;> rfl

/-- A read while nothing is in flight notes the place's word. -/
theorem busRead_idle {s : State} (h : s.core.latch = none) (a : BitVec 12) :
    s.busRead a = s.note (s.core.readLocation (locate a)) := by
  simp [State.busRead, CoreState.busy, h]

/-- A read of a place that reads exactly in any case notes the place's word. -/
theorem busRead_exact (s : State) {a : BitVec 12} (h : (locate a).exactWhileBusy = true) :
    s.busRead a = s.note (s.core.readLocation (locate a)) := by
  simp [State.busRead, h]

/-- A read of any other place while a command is in flight notes a fresh free value. -/
theorem busRead_unspecified {s : State} {l : Latch} {a : BitVec 12} (hb : s.core.latch = some l)
    (h : (locate a).exactWhileBusy = false) :
    s.busRead a = { s.note (Config.busyRead s.draws) with draws := s.draws + 1 } := by
  simp [State.busRead, CoreState.busy, hb, h]

/-- Everything a `CMD` write can do to a core: nothing, record an error where there was none, or, with nothing in
flight, latch a command. -/
theorem issue_cases (s : State) (w : Word) :
    ∃ c, s.issue w = .next { s with core := c } ∧
      ((c = s.core ∧ s.core.error ≠ none) ∨ (s.core.error = none ∧ ∃ code w', c = s.core.record code w')
        ∨ (s.core.latch = none ∧ ∃ i, decode w = some i ∧ c = s.core.latchCommand (encode i))) := by
  cases hl : s.core.latch with
  | some l =>
    refine ⟨_, issue_busy hl w, ?_⟩
    cases he : s.core.error with
    | some e => exact .inl ⟨by simp [CoreState.issueWhileBusy, he], by simp⟩
    | none => exact .inr (.inl ⟨rfl, .busy, w, by simp [CoreState.issueWhileBusy, he]⟩)
  | none =>
    cases hd : decode w with
    | none =>
      refine ⟨_, issue_illegal hl hd, ?_⟩
      cases he : s.core.error with
      | some e => exact .inl ⟨issueUnlessError_error he w _, by simp⟩
      | none => exact .inr (.inl ⟨rfl, .illegal, w, issueUnlessError_clear he w _⟩)
    | some i =>
      refine ⟨_, (issue_command hl hd).trans (exec_idle i hl), ?_⟩
      rcases issueOf_cases i s.core with h | ⟨h, code, h'⟩ | h
      · exact .inl h
      · exact .inr (.inl ⟨h, code, _, h'⟩)
      · exact .inr (.inr ⟨rfl, i, rfl, h⟩)

/-- Everything the core's turn can do, if it answers a next state. -/
theorem coreTurn_cases {s t : State} (h : s.coreTurn = .next t) :
    (s.core.latch = none ∧ t = s) ∨
      ∃ l i, s.core.latch = some l ∧ decode l.cmd = some i ∧
        t = { s with core := (performOf i l s.core).release } := by
  cases hl : s.core.latch with
  | none => rw [coreTurn_idle hl] at h; cases h; exact .inl ⟨rfl, rfl⟩
  | some l =>
    cases hd : decode l.cmd with
    | none => simp [State.coreTurn, hl, hd] at h
    | some i =>
      rw [coreTurn_latched hl hd, exec_latched i hl] at h
      cases h
      exact .inr ⟨l, i, rfl, hd, rfl⟩

/-- The one address that names `CMD`. -/
theorem locate_cmd {a : BitVec 12} (h : locate a = .cmd) : a = 0x000 := by
  have key : ∀ n : Nat, n < 0x100 → (registerMap.lookup n).getD .reserved = .cmd → n = 0 := by decide +kernel
  apply BitVec.eq_of_toNat_eq
  simp only [locate] at h
  split at h
  · exact key _ ‹_› h
  · split at h
    · cases h
    · split at h
      · cases h
      · split at h
        · cases h
        · split at h <;> cases h

/-- An aligned word write to `CMD` is the host's command write. -/
theorem access_cmd {a : Access} (hk : a.kind = .write) (hw : a.width = .word)
    (h : locate a.addr = .cmd) : a = cmdWrite a.data := by
  have h0 := locate_cmd h
  cases a
  simp only at hk hw h0
  simp [cmdWrite, hk, hw, h0]

/-- Everything an access can do, if it answers a next state: a bus read, a word stored in `DIN`, a `CMD` write, or
nothing. -/
theorem takeAccess_cases {s t : State} {a : Access} (h : s.takeAccess a = .next t) :
    (∃ b, t = s.busRead b) ∨
      (∃ k, a.kind = .write ∧ locate a.addr = .din k ∧ t = { s with core := s.core.writeDin k a.data }) ∨
      (a.kind = .write ∧ locate a.addr = .cmd ∧ a.width = .word ∧ a.addr.toNat % 4 = 0 ∧ s.issue a.data = .next t) ∨
      t = s := by
  unfold State.takeAccess at h
  cases ho : a.outside with
  | some r => rw [ho] at h; cases h
  | none =>
    rw [ho] at h
    have hw : a.width = .word ∧ a.addr.toNat % 4 = 0 := by
      unfold Access.outside at ho
      split at ho
      · cases ho
      · split at ho
        · cases ho
        · split at ho
          · cases ho
          · exact ⟨by simp_all, by simp_all⟩
    cases hk : a.kind with
    | read => rw [hk] at h; cases h; exact .inl ⟨_, rfl⟩
    | readWrite => rw [hk] at h; cases h; exact .inl ⟨_, rfl⟩
    | write =>
      rw [hk] at h
      simp only [State.busWrite] at h
      cases hloc : locate a.addr with
      | cmd => rw [hloc] at h; exact .inr (.inr (.inl ⟨rfl, rfl, hw.1, hw.2, h⟩))
      | din k => rw [hloc] at h; cases h; exact .inr (.inl ⟨k, rfl, rfl, rfl⟩)
      | _ => rw [hloc] at h; cases h; exact .inr (.inr (.inr rfl))

/-- The perform of a latched command whose turn is the next event. -/
theorem step_performed {s : State} {l : Latch} {i : Instr} {rest : List Event} (hl : s.core.latch = some l)
    (hd : decode l.cmd = some i) (he : s.env.events = .perform :: rest) :
    step s = .next { s.withEvents rest with core := (performOf i l s.core).release } := by
  rw [step_event he, takeEvent_perform, coreTurn_latched (s := s.withEvents rest) hl hd,
    exec_latched i (s := s.withEvents rest) hl, State.withEvents_core]

/-- The perform of a latched command with no event left. -/
theorem step_performed_last {s : State} {l : Latch} {i : Instr} (hl : s.core.latch = some l)
    (hd : decode l.cmd = some i) (he : s.env.events = []) :
    step s = .next { s with core := (performOf i l s.core).release } := by
  rw [step_no_events he, coreTurn_latched hl hd, exec_latched i hl]

/-- Everything a step can do to the core, if it answers a next state: nothing, store a word in `DIN`, record an error
or latch a command at a `CMD` write, reset it, or perform the latched command. -/
theorem step_cases {s t : State} (h : step s = .next t) :
    t.core = s.core ∨
      (∃ a rest k, s.env.events = .access a :: rest ∧ a.kind = .write ∧ locate a.addr = .din k ∧
        t.core = s.core.writeDin k a.data) ∨
      (∃ w rest, s.env.events = .access (cmdWrite w) :: rest ∧ s.core.error = none ∧
        ∃ code w', t.core = s.core.record code w') ∨
      (∃ w rest i, s.env.events = .access (cmdWrite w) :: rest ∧ s.core.latch = none ∧ decode w = some i ∧
        t.core = s.core.latchCommand (encode i)) ∨
      ((∃ rest, s.env.events = .rst none :: rest) ∧ t.core = CoreState.reset) ∨
      ∃ l i, (s.env.events = [] ∨ ∃ rest, s.env.events = .perform :: rest) ∧ s.core.latch = some l ∧
        decode l.cmd = some i ∧ t.core = (performOf i l s.core).release := by
  cases he : s.env.events with
  | nil =>
    rw [step_no_events he] at h
    rcases coreTurn_cases h with ⟨-, rfl⟩ | ⟨l, i, hl, hd, rfl⟩
    · exact .inl rfl
    · exact .inr (.inr (.inr (.inr (.inr ⟨l, i, .inl rfl, hl, hd, rfl⟩))))
  | cons e rest =>
    rw [step_event he] at h
    cases e with
    | perform =>
      rcases coreTurn_cases h with ⟨-, rfl⟩ | ⟨l, i, hl, hd, rfl⟩
      · exact .inl rfl
      · exact .inr (.inr (.inr (.inr (.inr ⟨l, i, .inr ⟨rest, rfl⟩, hl, hd, rfl⟩))))
    | rst during =>
      cases during with
      | none => cases h; exact .inr (.inr (.inr (.inr (.inl ⟨⟨rest, rfl⟩, rfl⟩))))
      | some a => cases h
    | access a =>
      rcases takeAccess_cases h with ⟨b, rfl⟩ | ⟨k, hk, hloc, rfl⟩ | ⟨hk, hloc, hw, -, hi⟩ | rfl
      · exact .inl (busRead_core _ _)
      · exact .inr (.inl ⟨a, rest, k, rfl, hk, hloc, rfl⟩)
      · have haw : a = cmdWrite a.data := access_cmd hk hw hloc
        obtain ⟨c, hc, hcase⟩ := issue_cases (s.withEvents rest) a.data
        rw [hc] at hi
        cases hi
        rcases hcase with ⟨rfl, -⟩ | ⟨hn, code, w', rfl⟩ | ⟨hn, i, hd, rfl⟩
        · exact .inl rfl
        · exact .inr (.inr (.inl ⟨a.data, rest, by rw [← haw], hn, code, w', rfl⟩))
        · exact .inr (.inr (.inr (.inl ⟨a.data, rest, i, by rw [← haw], hn, hd, rfl⟩)))
      · exact .inl rfl

end Sys2Proof.Machine
end

