-- ==== Sys2Proof/Laws/Operands.lean ====
section
/-! SUPPORT. The operand forms: byte lanes, seed words, and what each aligned address names. -/

namespace Sys2Proof.Machine

theorem lane_ofLanes_0 (b3 b2 b1 b0 : Byte) : lane (ofLanes b3 b2 b1 b0) 0 = b0 := by
  apply BitVec.eq_of_getLsbD_eq
  intro i hi
  show ((b3 ++ b2 ++ b1 ++ b0 : BitVec (8 + 8 + 8 + 8)).extractLsb' 0 8).getLsbD i = b0.getLsbD i
  simp only [BitVec.getLsbD_extractLsb', BitVec.getLsbD_append, hi, decide_true, Bool.true_and]
  simp [hi]

theorem lane_ofLanes_1 (b3 b2 b1 b0 : Byte) : lane (ofLanes b3 b2 b1 b0) 1 = b1 := by
  apply BitVec.eq_of_getLsbD_eq
  intro i hi
  show ((b3 ++ b2 ++ b1 ++ b0 : BitVec (8 + 8 + 8 + 8)).extractLsb' 8 8).getLsbD i = b1.getLsbD i
  simp only [BitVec.getLsbD_extractLsb', BitVec.getLsbD_append, hi, decide_true, Bool.true_and]
  have h0 : ¬ 8 + i < 8 := by omega
  have h1 : 8 + i - 8 = i := by omega
  simp [h0, h1, hi]

theorem lane_ofLanes_2 (b3 b2 b1 b0 : Byte) : lane (ofLanes b3 b2 b1 b0) 2 = b2 := by
  apply BitVec.eq_of_getLsbD_eq
  intro i hi
  show ((b3 ++ b2 ++ b1 ++ b0 : BitVec (8 + 8 + 8 + 8)).extractLsb' 16 8).getLsbD i = b2.getLsbD i
  simp only [BitVec.getLsbD_extractLsb', BitVec.getLsbD_append, hi, decide_true, Bool.true_and]
  have h0 : ¬ 16 + i < 8 := by omega
  have h1 : ¬ 16 + i - 8 < 8 := by omega
  have h2 : 16 + i - 8 - 8 = i := by omega
  simp [h0, h1, h2, hi]

theorem lane_ofLanes_3 (b3 b2 b1 b0 : Byte) : lane (ofLanes b3 b2 b1 b0) 3 = b3 := by
  apply BitVec.eq_of_getLsbD_eq
  intro i hi
  show ((b3 ++ b2 ++ b1 ++ b0 : BitVec (8 + 8 + 8 + 8)).extractLsb' 24 8).getLsbD i = b3.getLsbD i
  simp only [BitVec.getLsbD_extractLsb', BitVec.getLsbD_append, hi, decide_true, Bool.true_and]
  have h0 : ¬ 24 + i < 8 := by omega
  have h1 : ¬ 24 + i - 8 < 8 := by omega
  have h2 : ¬ 24 + i - 8 - 8 < 8 := by omega
  have h3 : 24 + i - 8 - 8 - 8 = i := by omega
  simp [h0, h1, h2, h3, hi]

/-- A word is its four lanes. -/
theorem ofLanes_lanes (w : Word) : ofLanes (lane w 3) (lane w 2) (lane w 1) (lane w 0) = w := by
  apply BitVec.eq_of_getLsbD_eq
  intro i hi
  show (lane w 3 ++ lane w 2 ++ lane w 1 ++ lane w 0 : BitVec (8 + 8 + 8 + 8)).getLsbD i = w.getLsbD i
  simp only [BitVec.getLsbD_append, lane, BitVec.getLsbD_extractLsb']
  by_cases h1 : i < 8
  · simp [h1]
  · by_cases h2 : i - 8 < 8
    · have : 8 + (i - 8) = i := by omega
      simp [h1, h2, this]
    · by_cases h3 : i - 8 - 8 < 8
      · have : 16 + (i - 8 - 8) = i := by omega
        simp [h1, h2, h3, this]
      · have h4 : i - 8 - 8 - 8 < 8 := by omega
        have : 24 + (i - 8 - 8 - 8) = i := by omega
        simp [h1, h2, h3, h4, this]

theorem seedIndex_toNat {w n : Nat} (hw : w ≤ 63) (hn : n < 4) : (seedIndex w n).toNat = 4 * w + n := by
  simp only [seedIndex, BitVec.toNat_ofNat]
  omega

theorem seedIndex_ne {w m k : Nat} (hw : w ≤ 63) (hm : m < 4) (hk : k < 4) (h : m ≠ k) :
    seedIndex w m ≠ seedIndex w k := by
  intro e
  have e' := congrArg BitVec.toNat e
  rw [seedIndex_toNat hw hm, seedIndex_toNat hw hk] at e'
  omega

/-- A seed word that was written is read back (20_memory.md R77). -/
theorem seedWord_putSeedWord (seed : Bytes256) {w : Nat} (hw : w ≤ 63) (v : Word) :
    seedWord (putSeedWord seed w v) w = v := by
  have ne : ∀ m k, m < 4 → k < 4 → m ≠ k → seedIndex w m ≠ seedIndex w k := fun _ _ => seedIndex_ne hw
  simp only [seedWord, putSeedWord, entry_put, ne 0 1 (by decide) (by decide) (by decide),
    ne 0 2 (by decide) (by decide) (by decide), ne 0 3 (by decide) (by decide) (by decide),
    ne 1 2 (by decide) (by decide) (by decide), ne 1 3 (by decide) (by decide) (by decide),
    ne 2 3 (by decide) (by decide) (by decide), if_true, if_false]
  exact ofLanes_lanes v

/-- The single registers, by address. -/
theorem locate_low {a : BitVec 12} (h : a.toNat < 0x100) :
    locate a = (registerMap.lookup a.toNat).getD .reserved := by
  simp [locate, h]

/-- The seed window. -/
theorem locate_seed {a : BitVec 12} {w : Nat} (h : a.toNat = 0x100 + 4 * w) (hw : w ≤ 63) :
    locate a = .seedWindow w := by
  have h1 : ¬ a.toNat < 0x100 := by omega
  have h2 : a.toNat < 0x200 := by omega
  have h3 : (a.toNat - 0x100) / 4 = w := by omega
  simp only [locate, h1, h2, h3, if_true, if_false]

/-- The reserved gap below the tables. -/
theorem locate_gap {a : BitVec 12} (h : 0x200 ≤ a.toNat) (h' : a.toNat < 0x400) : locate a = .reserved := by
  have h1 : ¬ a.toNat < 0x100 := by omega
  have h2 : ¬ a.toNat < 0x200 := by omega
  simp only [locate, h1, h2, h', if_true, if_false]

/-- The table windows. -/
theorem locate_table {a : BitVec 12} {n i : Nat} {sel : TableSel} (hs : tableSel n = some sel) (hi : i ≤ 255)
    (h : a.toNat = 0x400 * n + 4 * i) : locate a = .tableWindow sel (BitVec.ofNat 8 i) := by
  have hn : (n = 1 ∧ sel = .t1) ∨ (n = 2 ∧ sel = .t2) ∨ (n = 3 ∧ sel = .t3) := by
    unfold tableSel at hs
    split at hs <;> cases hs <;> simp
  have h1 : ¬ a.toNat < 0x100 := by omega
  have h2 : ¬ a.toNat < 0x200 := by omega
  have h3 : ¬ a.toNat < 0x400 := by omega
  rcases hn with ⟨rfl, rfl⟩ | ⟨rfl, rfl⟩ | ⟨rfl, rfl⟩
  · have h4 : a.toNat < 0x800 := by omega
    have h5 : (a.toNat - 0x400) / 4 = i := by omega
    simp only [locate, h1, h2, h3, h4, h5, if_true, if_false]
  · have h4 : ¬ a.toNat < 0x800 := by omega
    have h6 : a.toNat < 0xC00 := by omega
    have h5 : (a.toNat - 0x800) / 4 = i := by omega
    simp only [locate, h1, h2, h3, h4, h5, h6, if_true, if_false]
  · have h4 : ¬ a.toNat < 0x800 := by omega
    have h6 : ¬ a.toNat < 0xC00 := by omega
    have h5 : (a.toNat - 0xC00) / 4 = i := by omega
    simp only [locate, h1, h2, h3, h4, h5, h6, if_false]

end Sys2Proof.Machine
end

