-- ==== Sys2Proof/Laws/PerInstr.lean ====
section
/-! SUPPORT. A law of every command as syntax: the fields of its word. -/

namespace Sys2Proof.Laws.EncodeFields

/-- The word of a command whose arguments fit holds the opcode, the arguments and zeros (30_encoding.md R101, R104). -/
def Statement (i : Instr) : Prop :=
  i.wellFormed = true →
    opField (encode i) = i.opcode ∧ argA (encode i) = i.fieldA ∧ argB (encode i) = i.fieldB ∧ rsvField (encode i) = 0

theorem of_bounds {i : Instr} (ha : i.fieldA < 2 ^ 8) (hb : i.fieldB < 2 ^ 9) :
    opField (encode i) = i.opcode ∧ argA (encode i) = i.fieldA ∧ argB (encode i) = i.fieldB
      ∧ rsvField (encode i) = 0 :=
  ⟨opField_pack _ _ _, argA_pack _ _ ha, argB_pack _ _ hb, rsvField_pack _ _ _⟩

theorem nop : Statement .nop := fun _ => of_bounds (by decide) (by decide)

theorem softReset : Statement .softReset := fun _ => of_bounds (by decide) (by decide)

theorem clearErr : Statement .clearErr := fun _ => of_bounds (by decide) (by decide)

theorem setRounds (n : Nat) : Statement (.setRounds n) := fun h =>
  of_bounds (by simpa [Instr.wellFormed, Instr.fieldA] using h) (by simp [Instr.fieldB])

theorem loadKey : Statement .loadKey := fun _ => of_bounds (by decide) (by decide)

theorem loadSeed (w : Nat) : Statement (.loadSeed w) := fun h =>
  of_bounds (by simpa [Instr.wellFormed, Instr.fieldA] using h) (by simp [Instr.fieldB])

theorem permGen (t len : Nat) : Statement (.permGen t len) := fun h => by
  simp only [Instr.wellFormed, Bool.and_eq_true, decide_eq_true_eq] at h
  exact of_bounds h.1 h.2

theorem encryptBlock : Statement .encryptBlock := fun _ => of_bounds (by decide) (by decide)

end Sys2Proof.Laws.EncodeFields
end

