-- ==== Sys2Proof/Laws/Run.lean ====
section
/-! SUPPORT. Runs of several steps. -/

namespace Sys2Proof.Machine

theorem host_run_succ (M : Host.Core) (k : Nat) {s t : M.State} (h : M.step s = .next t) :
    M.run (k + 1) s = M.run k t := by
  rw [Host.Core.run, h]

/-- A run takes its first step. -/
theorem run_succ (k : Nat) {s t : State} (h : step s = .next t) :
    Sys2Proof.core.run (k + 1) s = Sys2Proof.core.run k t :=
  host_run_succ Sys2Proof.core k h

/-- Polls of `STATUS` that still see `BUSY` = 1 leave the core as it was and note one word each. -/
theorem run_polls (polls k : Nat) {s : State} {l : Latch} (hl : s.core.latch = some l) (rest : List Event) :
    ∃ u : State, u.core = s.core ∧ u.env.events = rest ∧ u.env.noted.length = s.env.noted.length + polls ∧
      Sys2Proof.core.run (polls + k) (s.withEvents (List.replicate polls (.access (wordRead 0x004)) ++ rest))
        = Sys2Proof.core.run k u := by
  induction polls generalizing s with
  | zero => exact ⟨s.withEvents rest, rfl, rfl, rfl, by simp⟩
  | succ n ih =>
    obtain ⟨u, h1, h2, h3, h4⟩ := ih (s := s.note s.core.statusWord) hl
    refine ⟨u, h1, h2, by rw [h3]; simp; omega, ?_⟩
    rw [← h4, show n + 1 + k = (n + k) + 1 by omega]
    apply run_succ
    rw [List.replicate_succ, List.cons_append, step_event (e := .access (wordRead 0x004)) rfl,
      takeEvent_wordRead _ (by decide), busRead_exact _ (by decide)]
    rfl

end Sys2Proof.Machine
end

