-- ==== Sys2Proof/Tests/Slice0.lean ====
section
/-! SUPPORT. The model's own tests. Expected values come from spec/95_test_vectors.md and the examples of the numbered
rules. The last part shows, for every statement with hypotheses, a state and operands that meet them. -/

open Sys2Proof Sys2Proof.Machine

namespace Sys2Proof.Tests

/-! ## Helpers -/

/-- The core after a step, if there is a next state. -/
def nextCore (r : Result) : Option CoreState :=
  match r with
  | .next t => some t.core
  | .fault _ => none
  | .refused _ => none

/-- The word the host noted last, if there is a next state. -/
def lastNoted (r : Result) : Option Word :=
  match r with
  | .next t => t.env.noted.head?
  | .fault _ => none
  | .refused _ => none

/-- A core with the given events to come. -/
def before (c : CoreState) (es : List Event) : State := { core := c, env := ⟨es, []⟩, draws := 0 }

/-- A core about to take a `CMD` write. -/
def writing (c : CoreState) (w : Word) : State := before c [.access (cmdWrite w)]

/-- A core with a command in flight, whose turn it is. -/
def inFlight (c : CoreState) (w : Word) (d : Quad) : State := before { c with latch := some ⟨w, d⟩ } []

/-- `K` of 95_test_vectors.md. -/
def keyK : Quad := ⟨0x03020100, 0x0B0A0908, 0x13121110, 0x1B1A1918⟩

/-- A seed buffer that holds bytes `b`, `b + 1`, … in its first 12 places. -/
def seedFrom (b : Byte) : Bytes256 :=
  ((List.range 12).map (BitVec.ofNat 8)).foldl (fun s i => Bytes256.put s i (b + i)) (Vector.replicate 256 0)

/-- Setup complete, with identity tables. -/
def readyCore : CoreState :=
  { CoreState.reset with keyV := true, t1V := true, t2V := true, t3V := true, kr := keyK }

/-- A session that has run one block. -/
def runningCore : CoreState := { readyCore with run := true, ctrLo := 1, fastEpoch := 1, slowEpoch := 1 }

/-- The block before both agings (V3 of 95_test_vectors.md section 2.6), with identity tables. -/
def agingCore : CoreState := { runningCore with fastEpoch := 1999, slowEpoch := 3999999 }

/-- An error recorded at reset (95_test_vectors.md section 2.8). -/
def errorCore : CoreState := { CoreState.reset with error := some ⟨.rounds, 0x00002D10⟩ }

/-- `INIT 7, K, S1, S2, S3` as far as a block's output sees it: `T1` from `S1`. -/
def p1Core : CoreState := { readyCore with t1 := permGen (seedFrom 0x00) 12 }

/-! ## Encoding: one word a command, written out from the patterns of R104 -/

theorem test_decode_nop : decode 0b00000000000000000000000000000000 = some .nop := by decide

theorem test_decode_softReset : decode 0b00000000000000000000000000000001 = some .softReset := by decide

theorem test_decode_clearErr : decode 0b00000000000000000000000000000010 = some .clearErr := by decide

theorem test_decode_setRounds : decode 0b00000000000000001000000100010000 = some (.setRounds 129) := by decide

theorem test_decode_loadKey : decode 0b00000000000000000000000000010001 = some .loadKey := by decide

theorem test_decode_loadSeed : decode 0b00000000000000000011111100010010 = some (.loadSeed 63) := by decide

theorem test_decode_permGen : decode 0b00000001000000010000001100010011 = some (.permGen 3 257) := by decide

theorem test_decode_encryptBlock : decode 0b00000000000000000000000000100000 = some .encryptBlock := by decide

/-- The illegal words of 95_test_vectors.md section 2.1. -/
theorem test_decode_illegal :
    decode 0x00010010 = none ∧ decode 0x00000111 = none ∧ decode 0x02000013 = none ∧ decode 0x00000021 = none ∧
    decode 0x00000030 = none ∧ decode 0x00000100 = none ∧ decode 0x80000000 = none ∧ decode 0xFFFFFFFF = none := by
  decide

theorem test_encode_words :
    encode (.setRounds 44) = 0x00002C10 ∧ encode (.loadSeed 63) = 0x00003F12 ∧ encode (.permGen 1 12) = 0x000C0113 ∧
    encode (.permGen 1 256) = 0x01000113 ∧ encode .loadKey = 0x00000011 := by
  decide

theorem test_decodeTableWord : decodeTableWord 32 0x000C0213 = some (.permGen 2 12) := by decide

/-- The next step takes the placed word as its command. -/
theorem test_withFetchWord :
    (nextCore (step (State.reset.withFetchWord 32 0x00000011))).map (·.latch)
      = some (some ⟨0x00000011, Quad.zero⟩) := by
  decide

/-! ## Well-formedness: each check refuses a term (R108) -/

theorem test_wf_setRounds : (Instr.setRounds 255).wellFormed = true ∧ (Instr.setRounds 256).wellFormed = false := by
  decide

theorem test_wf_loadSeed : (Instr.loadSeed 255).wellFormed = true ∧ (Instr.loadSeed 256).wellFormed = false := by
  decide

theorem test_wf_permGen :
    (Instr.permGen 255 511).wellFormed = true ∧ (Instr.permGen 256 1).wellFormed = false ∧
    (Instr.permGen 1 512).wellFormed = false := by
  decide

/-! ## The internal functions (95_test_vectors.md sections 2.2, 2.3, 2.5, 2.6) -/

theorem test_roundF :
    roundF 0x80000000 = 0x00000001 ∧ roundF 0x00000021 = 0x00000062 ∧ roundF 0x12345678 = 0x2668EAF0 ∧
    roundF 0xDEADBEEF = 0x69FEE134 := by
  decide

theorem test_round : cipherRound 0x12345678 0x9ABCDEF0 0x0F0F0F0F = (0xB3DB3B0F, 0x12345678) := by decide

theorem test_keyStep :
    keyStep ⟨1, 2, 3, 4⟩ 0xFFFFFFFD = ⟨2, 3, 4, 0xFFFFFFF8⟩ ∧
    keyStep keyK 0xFFFFFFFD = ⟨0x0B0A0908, 0x13121110, 0x1B1A1918, 0xEBE9EDED⟩ := by
  decide

/-- The seven-round block of program P1, and the block that agrees with the published Simeck64/128 vector. -/
theorem test_blockPrim :
    blockPrim 0 0 keyK 7
      = ((0xE09A4CF6, 0x759C3DD2), ⟨0x5A1F9093, 0xA5E32B2B, 0x85C0090A, 0xD0091304⟩) ∧
    blockPrim 0x656B696C 0x20646E75 keyK 44
      = ((0x20A5006E, 0x7F1ED998), ⟨0x2688A1E4, 0xDEB8C67B, 0x4997D51F, 0x8FB0373E⟩) := by
  decide +kernel

/-- The final `S[0..3]` for the key 00 (R153). -/
theorem test_permGen_entries :
    ([0, 1, 2, 3] : List Byte).map (Bytes256.entry (permGen (Vector.replicate 256 0) 1))
      = [0x00, 0x23, 0x03, 0x2B] := by
  decide +kernel

/-- The first six steps of the trace of R153: `j`, and `S[0..7]` after them. -/
theorem test_permGen_trace :
    (permLoop (Vector.replicate 256 0) 1 [0, 1, 2, 3, 4, 5]).2 = 11 ∧
    ([0, 1, 2, 3, 4, 5, 6, 7] : List Byte).map
      (Bytes256.entry (permLoop (Vector.replicate 256 0) 1 [0, 1, 2, 3, 4, 5]).1) = [0, 1, 3, 5, 9, 11, 6, 7] := by
  decide +kernel

theorem test_bswap32 : bswap32 0x12345678 = 0x78563412 ∧ bswap32 0x000007CF = 0xCF070000 := by decide

/-- The identity with entries 0 and 1 exchanged, by hand. -/
theorem test_substitute : substitute (Bytes256.exchange identityTable 0 1) 0x00010203 = 0x01000203 := by
  decide +kernel

/-- `T1` exchanges 0 and 1 and `T2` exchanges 1 and 2, so entry 0 goes 0, 1, 2. -/
theorem test_age :
    ([0, 1, 2, 3] : List Byte).map
      (Bytes256.entry (age (Bytes256.exchange identityTable 0 1) (Bytes256.exchange identityTable 1 2)))
      = [2, 0, 1, 3] := by
  decide +kernel

/-! ## The commands, one step each (sections 2.7 and 2.8, and the rules' examples) -/

theorem test_nop : (nextCore (step (inFlight readyCore 0x00000000 Quad.zero))).map (·.statusWord) = some 0x00002F00 := by
  decide

/-- A discarded `NOP` (R255). -/
theorem test_nop_discarded : (nextCore (step (writing errorCore 0x00000000))).map (·.statusWord) = some 0x00000022 := by
  decide

theorem test_softReset :
    (nextCore (step (inFlight runningCore 0x00000001 keyK))).map
      (fun c => (c.statusWord, c.rounds, c.kr, c.ctrLo)) = some (0x00000000, 7, Quad.zero, 0) := by
  decide

theorem test_softReset_with_error :
    (nextCore (step (writing errorCore 0x00000001))).map (·.latch) = some (some ⟨0x00000001, Quad.zero⟩) := by
  decide

/-- `CLEAR_ERR` from 00003F52 keeps the session. -/
theorem test_clearErr :
    (nextCore (step (inFlight { runningCore with error := some ⟨.locked, 0x00000310⟩ } 0x00000002 Quad.zero))).map
      (fun c => (c.statusWord, c.errCmd, c.kr, c.ctrLo)) = some (0x00003F00, 0, keyK, 1) := by
  decide

theorem test_clearErr_without_error :
    (nextCore (step (inFlight readyCore 0x00000002 Quad.zero))).map (·.statusWord) = some 0x00002F00 := by
  decide

theorem test_setRounds :
    (nextCore (step (inFlight CoreState.reset 0x00002C10 Quad.zero))).map (fun c => (c.rounds, c.statusWord))
      = some (44, 0) := by
  decide

theorem test_setRounds_45 :
    (nextCore (step (writing CoreState.reset 0x00002D10))).map (fun c => (c.rounds, c.statusWord, c.errCmd))
      = some (7, 0x00000022, 0x00002D10) := by
  decide

theorem test_loadKey :
    (nextCore (step (inFlight CoreState.reset 0x00000011 ⟨1, 2, 3, 4⟩))).map (fun c => (c.kr, c.statusWord))
      = some (⟨1, 2, 3, 4⟩, 0x00000100) := by
  decide

theorem test_loadKey_locked :
    (nextCore (step (writing runningCore 0x00000011))).map (·.statusWord) = some 0x00003F52 := by
  decide

theorem test_loadSeed :
    (nextCore (step (inFlight CoreState.reset 0x00003F12 ⟨0x0B0A0908, 0, 0, 0⟩))).map
      (fun c => ([251, 252, 253, 254, 255] : List Byte).map (Bytes256.entry c.seed))
      = some [0x00, 0x08, 0x09, 0x0A, 0x0B] := by
  decide +kernel

theorem test_loadSeed_64 :
    (nextCore (step (writing CoreState.reset 0x00004012))).map (·.statusWord) = some 0x00000042 := by
  decide

/-- `PERM_GEN T3, 256` from reset. -/
theorem test_permGen :
    (nextCore (step (inFlight CoreState.reset 0x01000313 Quad.zero))).map
      (fun c => (c.statusWord, Bytes256.entry c.t1 1)) = some (0x00000800, 0x01) := by
  decide

/-- `E_ARG` comes before `E_SEEDLEN` (R256). -/
theorem test_permGen_order :
    (nextCore (step (writing CoreState.reset 0x00000413))).map (·.statusWord) = some 0x00000042 := by
  decide

/-- Block 0 of program P1 (the example of R200). -/
theorem test_encryptBlock :
    (nextCore (step (inFlight p1Core 0x00000020 Quad.zero))).map
      (fun c => ([c.dout0, c.dout1, c.ctrLo, c.fastEpoch, c.slowEpoch, c.statusWord], c.kr))
      = some ([0x8AFA6974, 0xE081B825, 1, 1, 1, 0x00003F00], ⟨0x5A1F9093, 0xA5E32B2B, 0x85C0090A, 0xD0091304⟩) := by
  decide +kernel

/-- V4 of section 2.6 with the identity table, which leaves `(W1, W0)`: the counter wraps. -/
theorem test_encryptBlock_wrap :
    (nextCore (step (inFlight { readyCore with ctrLo := 0xFFFFFFFF, fastEpoch := 5, slowEpoch := 5 } 0x00000020
      Quad.zero))).map (fun c => [c.dout0, c.dout1, c.ctrLo, c.statusWord])
      = some [0x7B4B8553, 0x3F6B9034, 0, 0x00003F00] := by
  decide +kernel

/-- The aging order of V3: `T1` uses the `T2` from before its own aging, so entry 0 goes 0, 1, 2 and not on to 3. -/
theorem test_aging_order :
    let c := epochsAndAging { agingCore with
      t1 := Bytes256.exchange identityTable 0 1, t2 := Bytes256.exchange identityTable 1 2,
      t3 := Bytes256.exchange identityTable 2 3 }
    ([Bytes256.entry c.t1 0, Bytes256.entry c.t2 1], [c.fastEpoch, c.slowEpoch]) = ([2, 3], [0, 0]) := by
  decide +kernel

/-! ## Error codes in `STATUS`: rows 10, 6 and 1 of the error table of 95_test_vectors.md -/

theorem test_status_illegal :
    (nextCore (step (writing CoreState.reset 0x00000030))).map (fun c => (c.statusWord, c.errCmd))
      = some (0x00000012, 0x00000030) := by
  decide

theorem test_status_seedLen :
    (nextCore (step (writing CoreState.reset 0x00000113))).map (fun c => (c.statusWord, c.errCmd))
      = some (0x00000032, 0x00000113) := by
  decide

theorem test_status_notReady :
    (nextCore (step (writing CoreState.reset 0x00000020))).map (fun c => (c.statusWord, c.errCmd))
      = some (0x00000062, 0x00000020) := by
  decide

/-! ## The bus (section 2.9) -/

theorem test_read_id : lastNoted (step (before runningCore [.access (wordRead 0x038)])) = some 0x534D4B52 := by decide

theorem test_read_table : lastNoted (step (before readyCore [.access (wordRead 0x414)])) = some 0x00000005 := by
  decide +kernel

theorem test_write_ctrLo_ignored :
    (nextCore (step (before runningCore [.access (wordWrite 0x028 5)]))).map (·.ctrLo) = some 1 := by
  decide

/-- `E_BUSY` with a command in flight: `STATUS` 00003F73 (section 2.8). -/
theorem test_busy_write :
    (nextCore (step { inFlight runningCore 0x00000020 Quad.zero with
      env := ⟨[.access (cmdWrite 0x00000000)], []⟩ })).map (·.statusWord) = some 0x00003F73 := by
  decide

/-- The seed packing of R287, seen from the host. -/
theorem test_hostWord : hostWord [0x10, 0x11, 0x12, 0x13, 0x14] 0 = 0x13121110 ∧
    hostWord [0x10, 0x11, 0x12, 0x13, 0x14] 4 = 0x00000014 := by
  decide

/-! ## The hypotheses of the statements can be met -/

theorem test_hyp_DecodeOfEncode :
    (Instr.permGen 255 511).wellFormed = true ∧ (Instr.permGen 0 0).wellFormed = true ∧
    (Instr.setRounds 0).wellFormed = true ∧ (Instr.loadSeed 255).wellFormed = true := by
  decide

theorem test_hyp_EncodeOfDecode : decode 0x01FFFF13 = some (.permGen 255 511) ∧ decode 0x00000020 = some .encryptBlock := by
  decide

theorem test_hyp_OpcodeRowsDecide :
    (⟨.setRounds, 0x00000010, 0xFFFF00FF⟩ : OpcodeRow) ∈ opcodeMap ∧ (0x0000FF10 : Word) &&& 0xFFFF00FF = 0x00000010 ∧
    ∀ r ∈ opcodeMap, (0x00000021 : Word) &&& r.mask ≠ r.bits := by
  decide

theorem test_hyp_OpcodeRowsDecide_out_of_range :
    Issues (writing CoreState.reset 0x00000113) 0x00000113 [] ∧ CoreState.reset.latch = none ∧
    CoreState.reset.error = none ∧ CoreState.reset.run = false ∧
    ((0x00000113 : Word), ErrorCode.seedLen) ∈ [((0x00002D10 : Word), ErrorCode.rounds), (0x00004012, .arg),
      (0x000C0013, .arg), (0x00000113, .seedLen)] := by
  exact ⟨rfl, rfl, rfl, rfl, by simp⟩

theorem test_hyp_IllegalWords :
    Issues (writing CoreState.reset 0x00010010) 0x00010010 [] ∧ CoreState.reset.latch = none ∧
    legalWord 0x00010010 = false ∧ CoreState.reset.error = none := by
  exact ⟨rfl, rfl, by decide, rfl⟩

theorem test_hyp_IllegalWords_discarded :
    Issues (writing errorCore 0xFFFFFFFF) 0xFFFFFFFF [] ∧ errorCore.latch = none ∧ legalWord 0xFFFFFFFF = false ∧
    errorCore.error ≠ none := by
  exact ⟨rfl, rfl, by decide, by decide⟩

theorem test_hyp_StepIssuesTheDecodedCommand :
    Issues (writing readyCore 0x00000020) 0x00000020 [] ∧ readyCore.latch = none ∧
    decode 0x00000020 = some .encryptBlock := by
  exact ⟨rfl, rfl, by decide⟩

/-- A state with a command in flight and the given events to come. -/
def inFlightWith (c : CoreState) (w : Word) (es : List Event) : State := (inFlight c w keyK).withEvents es

theorem test_hyp_StepPerformsTheLatchedCommand :
    (inFlightWith readyCore 0x00000020 []).core.latch = some ⟨0x00000020, keyK⟩ ∧
    decode 0x00000020 = some .encryptBlock ∧ (inFlightWith readyCore 0x00000020 []).env.events = [] ∧
    (inFlightWith readyCore 0x00000020 [.perform]).env.events = [.perform] := by
  exact ⟨rfl, by decide, rfl, rfl⟩

theorem test_hyp_StepPerforms_idle :
    (before readyCore []).core.latch = none ∧ (before readyCore []).env.events = [] ∧
    (before readyCore [.perform]).core.latch = none ∧ (before readyCore [.perform]).env.events = [.perform] := by
  exact ⟨rfl, rfl, rfl, rfl⟩

theorem test_hyp_FetchWordRunsTheDecodedCommand :
    decodeTableWord 32 0x01000113 = some (.permGen 1 256) ∧ decodeTableWord 8 0x00000020 = some .encryptBlock := by
  decide

theorem test_hyp_IssueFollowsTheCheckOrder : Issues (writing errorCore 0x00000413) 0x00000413 [] := rfl

theorem test_hyp_CodesACommandCanRaise :
    Issues (writing CoreState.reset 0x00002D10) 0x00002D10 [] ∧ CoreState.reset.error = none ∧
    (∃ t, step (writing CoreState.reset 0x00002D10) = .next t ∧ t.core.error = some ⟨.rounds, 0x00002D10⟩) ∧
    decode 0x00002D10 = some (.setRounds 45) := by
  exact ⟨rfl, rfl, ⟨_, rfl, by decide⟩, by decide⟩

theorem test_hyp_CodesACommandCanRaise_illegal :
    decode 0x00000021 = none ∧
    (∃ t, step (writing CoreState.reset 0x00000021) = .next t ∧ t.core.error = some ⟨.illegal, 0x00000021⟩) ∧
    ∃ t, step (inFlightWith readyCore 0x00000020 [.access (cmdWrite 0)]) = .next t ∧ t.core.error = some ⟨.busy, 0⟩ := by
  exact ⟨by decide, ⟨_, rfl, by decide⟩, ⟨_, rfl, by decide⟩⟩

theorem test_hyp_ErrorBlock :
    Issues (writing errorCore 0x00000020) 0x00000020 [] ∧ errorCore.error = some ⟨.rounds, 0x00002D10⟩ ∧
    (0x00000020 : Word) ≠ 0x00000001 ∧ (0x00000020 : Word) ≠ 0x00000002 ∧
    Issues (writing errorCore 0x00000001) 0x00000001 [] ∧ Issues (writing errorCore 0x00000002) 0x00000002 [] ∧
    errorCore.latch = none := by
  exact ⟨rfl, rfl, by decide, by decide, rfl, rfl, rfl⟩

theorem test_hyp_RecordingAnError :
    (∃ t, step (writing CoreState.reset 0x00000020) = .next t ∧ t.core.error ≠ none) ∧ CoreState.reset.error = none ∧
    (∃ t, step (writing errorCore 0x00000020) = .next t) ∧ errorCore.error ≠ none := by
  exact ⟨⟨_, rfl, by decide⟩, rfl, ⟨_, rfl⟩, by decide⟩

theorem test_hyp_CommandWriteWhileBusy :
    (inFlightWith readyCore 0x00000020 [.access (cmdWrite 0x00000002), .perform]).core.latch
      = some ⟨0x00000020, keyK⟩ ∧ decode 0x00000020 = some .encryptBlock ∧
    Issues (inFlightWith readyCore 0x00000020 [.access (cmdWrite 0x00000002), .perform]) 0x00000002 [.perform] := by
  exact ⟨rfl, by decide, rfl⟩

theorem test_hyp_SetupCommandsAreLocked :
    isSetup .loadKey = true ∧ (before runningCore []).core.latch = none ∧ runningCore.error = none ∧
    runningCore.run = true ∧ ∃ t, exec .loadKey (before runningCore []) = .next t := by
  exact ⟨rfl, rfl, rfl, rfl, ⟨_, rfl⟩⟩

/-- The states and the boundary operands of the setup commands' clauses. -/
theorem test_hyp_SetupCommands :
    CoreState.reset.latch = none ∧ CoreState.reset.error = none ∧ CoreState.reset.run = false ∧
    runningCore.latch = none ∧ runningCore.error = none ∧ runningCore.run = true ∧
    (inFlight CoreState.reset 0x00002C10 keyK).core.latch = some ⟨0x00002C10, keyK⟩ := by
  exact ⟨rfl, rfl, rfl, rfl, rfl, rfl, rfl⟩

theorem test_hyp_SetRoundsCommand :
    255 < 256 ∧ (0 < 1 ∨ 44 < 0) ∧ (45 < 1 ∨ 44 < 45) ∧ (1 ≤ 1 ∧ 1 ≤ 44) ∧ (1 ≤ 44 ∧ 44 ≤ 44) := by decide

theorem test_hyp_LoadSeedCommand : 255 < 256 ∧ 63 < 64 ∧ 0 ≤ 63 ∧ 63 ≤ 63 ∧
    ((0 : Byte).toNat < 4 * 63 ∨ 4 * 63 + 3 < (0 : Byte).toNat) := by decide

theorem test_hyp_PermGenCommand :
    (255 < 256 ∧ 511 < 512) ∧ (0 ≠ 1 ∧ 0 ≠ 2 ∧ 0 ≠ 3) ∧ (4 ≠ 1 ∧ 4 ≠ 2 ∧ 4 ≠ 3) ∧ (257 = 0 ∨ 256 < 257) ∧
    (1 ≤ 1 ∧ 1 ≤ 256) ∧ (1 ≤ 256 ∧ 256 ≤ 256) := by decide

theorem test_hyp_EncryptBlockCommand :
    ¬ (CoreState.reset.keyV = true ∧ CoreState.reset.t1V = true ∧ CoreState.reset.t2V = true ∧
      CoreState.reset.t3V = true) ∧
    (readyCore.keyV = true ∧ readyCore.t1V = true ∧ readyCore.t2V = true ∧ readyCore.t3V = true) ∧
    blockPrim (bswap32 0) (bswap32 readyCore.ctrLo) readyCore.kr readyCore.rounds.toNat
      = ((0xE09A4CF6, 0x759C3DD2), ⟨0x5A1F9093, 0xA5E32B2B, 0x85C0090A, 0xD0091304⟩) := by
  decide +kernel

/-- The states of the control commands' clauses. -/
theorem test_hyp_ControlCommands :
    errorCore.latch = none ∧ errorCore.error ≠ none ∧ CoreState.reset.latch = none ∧ CoreState.reset.error = none ∧
    (inFlight errorCore 0x00000002 keyK).core.latch = some ⟨0x00000002, keyK⟩ := by
  exact ⟨rfl, by decide, rfl, rfl, rfl⟩

theorem test_hyp_ControlCommands_busy :
    (inFlightWith readyCore 0x00000020 [.access (cmdWrite 0x00000001)]).core.latch = some ⟨0x00000020, keyK⟩ ∧
    Issues (inFlightWith readyCore 0x00000020 [.access (cmdWrite 0x00000001)]) 0x00000001 [] ∧
    Issues (inFlightWith readyCore 0x00000020 [.access (cmdWrite 0x00000002)]) 0x00000002 [] := by
  exact ⟨rfl, rfl, rfl⟩

theorem test_hyp_RoundAndKeyStep : cipherRound 0xFFFFFFFF 0 0 = (0x00000000, 0xFFFFFFFF) := by decide

theorem test_hyp_PermGenFollowsItsLoop :
    (1 ≤ 1 ∧ 1 ≤ 256 ∧ 1 ≤ 256 ∧ 256 ≤ 256) ∧
    ∀ j : Byte, j.toNat < 1 →
      Bytes256.entry (Vector.replicate 256 0) j = Bytes256.entry (Bytes256.put (Vector.replicate 256 0) 1 7) j := by
  refine ⟨by decide, fun j hj => ?_⟩
  rw [entry_put_ne]
  rintro rfl
  exact absurd hj (by decide)

/-- `k` and `j` of step 0 for the key 00: row 0 of the trace of R153. -/
theorem test_hyp_PermGenFollowsItsLoop_step :
    (0 : Byte) = Bytes256.entry (Vector.replicate 256 0) (BitVec.ofNat 8 ((0 : Byte).toNat % 1)) ∧
    (0 : Byte) = (permLoop (Vector.replicate 256 0) 1 []).2
      + Bytes256.entry (permLoop (Vector.replicate 256 0) 1 []).1 (0 + 0) + 0 := by
  decide +kernel

theorem identity_isPermutation : IsPermutation identityTable := by
  have h : Bytes256.entry identityTable = id := funext entry_identityTable
  rw [IsPermutation, h]
  exact Function.bijective_id

theorem test_hyp_AgingComposes : IsPermutation identityTable ∧ IsPermutation identityTable :=
  ⟨identity_isPermutation, identity_isPermutation⟩

/-- The running core before both agings meets the invariant. -/
theorem test_hyp_BothAgingsInOneBlock : agingCore.Inv ∧ agingCore.slowEpoch.toNat + 1 = 4000000 := by
  refine ⟨?_, by decide⟩
  exact
    { roundsMin := by decide, roundsMax := by decide, fastRange := by decide, slowRange := by decide,
      epochsAgree := by decide, t1Perm := identity_isPermutation, t2Perm := identity_isPermutation,
      t3Perm := identity_isPermutation, runReady := fun _ => ⟨rfl, rfl, rfl, rfl⟩,
      setupZero := by simp [agingCore, runningCore], keyUnset := by simp [agingCore, runningCore, readyCore],
      t1Unset := fun _ => rfl, t2Unset := fun _ => rfl, t3Unset := fun _ => rfl,
      latched := by simp [agingCore, runningCore, readyCore, CoreState.reset] }

theorem test_hyp_AgingBoundaries :
    readyCore.fastEpoch = 0 ∧ readyCore.slowEpoch = 0 ∧ (List.replicate 2000 ((0, 0) : Word × Word)).length < 4000000 ∧
    (List.replicate 4000000 ((0, 0) : Word × Word)).length = 4000000 := by
  exact ⟨rfl, rfl, by rw [List.length_replicate]; decide, List.length_replicate⟩

theorem test_hyp_KeystreamIgnoresThePlaintext :
    (∃ t, exec .encryptBlock (inFlight readyCore 0x00000020 Quad.zero) = .next t) ∧
    ∃ u, exec .encryptBlock (inFlight readyCore 0x00000020 keyK) = .next u := by
  exact ⟨⟨_, rfl⟩, ⟨_, rfl⟩⟩

/-- Two cores that differ outside the session. -/
theorem test_hyp_SameSession :
    SameSession readyCore { readyCore with din := keyK, dout0 := 5, seed := Bytes256.put readyCore.seed 0 1 } :=
  ⟨rfl, rfl, rfl, rfl, rfl, rfl, rfl, rfl⟩

theorem test_hyp_TwoTimePad : [((1, 2) : Word × Word), (3, 4)].length = [((5, 6) : Word × Word), (7, 8)].length := rfl

theorem test_hyp_StatusLayout :
    (before runningCore [.access (wordWrite 0x004 0)]).env.events = [.access (wordWrite 0x004 0)] := rfl

/-- The two clauses on `ERRCODE`, the second at the first and the last code. -/
theorem test_hyp_StatusLayout_errCode :
    CoreState.reset.error = none ∧ errorCore.error = some ⟨.rounds, 0x00002D10⟩ ∧
    (ErrorCode.illegal, (1 : BitVec 4)) ∈ [(ErrorCode.illegal, (1 : BitVec 4)), (.rounds, 2), (.seedLen, 3), (.arg, 4),
      (.locked, 5), (.notReady, 6), (.busy, 7)] ∧
    (ErrorCode.busy, (7 : BitVec 4)) ∈ [(ErrorCode.illegal, (1 : BitVec 4)), (.rounds, 2), (.seedLen, 3), (.arg, 4),
      (.locked, 5), (.notReady, 6), (.busy, 7)] := by
  exact ⟨rfl, rfl, by decide, by decide⟩

theorem test_hyp_RegisterReads :
    (before readyCore [.access (wordRead 0x000)]).env.events = [.access (wordRead 0x000)] ∧ readyCore.latch = none ∧
    (before readyCore [.access (wordRead 0x04C)]).env.events = [.access (wordRead 0x04C)] := by
  exact ⟨rfl, rfl, rfl⟩

theorem test_hyp_OperandWrites :
    ((0x010 : BitVec 12), { readyCore.din with w0 := 5 }) ∈
      [((0x010 : BitVec 12), { readyCore.din with w0 := 5 }), (0x014, { readyCore.din with w1 := 5 }),
        (0x018, { readyCore.din with w2 := 5 }), (0x01C, { readyCore.din with w3 := 5 })] ∧
    (before readyCore [.access (wordWrite 0x010 5)]).env.events = [.access (wordWrite 0x010 5)] ∧
    (before readyCore [.access (wordWrite 0x01C 5)]).env.events = [.access (wordWrite 0x01C 5)] := by
  exact ⟨List.mem_cons_self, rfl, rfl⟩

theorem test_hyp_ReservedOffsets :
    ∀ a ∈ [(0x03C : BitVec 12), 0x050, 0x0FC, 0x200, 0x3FC], a.toNat % 4 = 0 ∧
      (a.toNat = 0x03C ∨ (0x050 ≤ a.toNat ∧ a.toNat ≤ 0x0FC) ∨ (0x200 ≤ a.toNat ∧ a.toNat ≤ 0x3FC)) := by
  simp

theorem test_hyp_HostCannotWriteSessionState :
    (∀ a ∈ [(0x004 : BitVec 12), 0x00C, 0x020, 0x100, 0xFFC], a.toNat % 4 = 0 ∧ a ≠ 0x000 ∧
      (a.toNat < 0x010 ∨ 0x01C < a.toNat)) ∧
    ∃ t, step (before readyCore [.access (wordWrite 0x01C 5)]) = .next t := by
  exact ⟨by simp, ⟨_, rfl⟩⟩

theorem test_hyp_ReadsHaveNoSideEffect :
    (0xFFC : BitVec 12).toNat % 4 = 0 ∧ readyCore.latch = none ∧
    (before readyCore [.access (wordRead 0xFFC)]).env.events = [.access (wordRead 0xFFC)] := by
  exact ⟨by decide, rfl, rfl⟩

theorem test_hyp_SeedWindow :
    0 ≤ 63 ∧ 63 ≤ 63 ∧ BitVec.ofNat 12 (0x100 + 4 * 63) = 0x1FC ∧ CoreState.reset.latch = none ∧
    (inFlight CoreState.reset 0x00003F12 keyK).core.latch = some ⟨0x00003F12, keyK⟩ ∧
    ∃ t, exec (.loadSeed 63) (inFlight CoreState.reset 0x00003F12 keyK) = .next t := by
  exact ⟨by decide, by decide, by decide, rfl, rfl, ⟨_, rfl⟩⟩

theorem test_hyp_TableWindows :
    (1, readyCore.t1) ∈ [(1, readyCore.t1), (2, readyCore.t2), (3, readyCore.t3)] ∧ 0 ≤ 255 ∧ 255 ≤ 255 ∧
    BitVec.ofNat 12 (0x400 * 1 + 4 * 0) = 0x400 ∧ BitVec.ofNat 12 (0x400 * 3 + 4 * 255) = 0xFFC ∧
    readyCore.latch = none := by
  exact ⟨List.mem_cons_self, by decide, by decide, by decide, by decide, rfl⟩

/-- An address in each clause of the statement, and the ends of the last one. -/
theorem test_hyp_ReadsWhileBusy :
    (∀ a ∈ [(0x000 : BitVec 12), 0x004, 0x010, 0x014, 0x018, 0x01C, 0x038, 0x03C, 0x050, 0x0FC, 0x200, 0x3FC, 0x008,
      0x040, 0x100, 0x1FC, 0x400, 0xFFC], a.toNat % 4 = 0) ∧
    (inFlightWith readyCore 0x00000020 [.access (wordRead 0x008)]).core.latch = some ⟨0x00000020, keyK⟩ ∧
    (inFlightWith readyCore 0x00000020 [.access (wordRead 0x008)]).env.events = [.access (wordRead 0x008)] := by
  exact ⟨by simp, rfl, rfl⟩

/-- The clauses of `AccessesOutsideTheContract`. -/
theorem test_hyp_AccessesOutsideTheContract :
    (⟨.readWrite, .word, 0x000, 0⟩ : Access).kind = .readWrite ∧ (⟨.read, .byte, 0x000, 0⟩ : Access).width ≠ .word ∧
    (⟨.write, .word, 0x002, 0⟩ : Access).addr.toNat % 4 ≠ 0 ∧
    (before readyCore [.access ⟨.read, .byte, 0x000, 0⟩]).env.events = [.access ⟨.read, .byte, 0x000, 0⟩] ∧
    (before readyCore [.rst (some (wordRead 0x004))]).env.events = [.rst (some (wordRead 0x004))] := by
  exact ⟨rfl, by decide, by decide, rfl, rfl⟩

theorem test_hyp_BothResetsAgree :
    (before runningCore [.rst none]).env.events = [.rst none] ∧
    Performs (inFlight runningCore 0x00000001 keyK) .softReset := by
  exact ⟨rfl, .inl rfl, ⟨0x00000001, keyK⟩, rfl, by decide⟩

theorem test_hyp_OperandWriteInFlight :
    (inFlight readyCore 0x00000020 keyK).core.latch = some ⟨0x00000020, keyK⟩ ∧
    decode 0x00000020 = some .encryptBlock ∧ Instr.encryptBlock ≠ .softReset := by
  exact ⟨rfl, by decide, by decide⟩

/-- The clauses of `BusyProtocol`: a latch filled, emptied by a turn and by `RST`, kept over a read, and `E_BUSY`. -/
theorem test_hyp_BusyProtocol :
    (∃ t, step (writing readyCore 0x00000020) = .next t ∧ t.core.latch ≠ none) ∧
    (∃ t, step (inFlightWith readyCore 0x00000000 [.perform]) = .next t) ∧
    CoreTurn (inFlightWith readyCore 0x00000000 [.perform]) ∧
    (∃ t, step (inFlightWith readyCore 0x00000000 [.rst none]) = .next t) ∧
    ResetEdge (inFlightWith readyCore 0x00000000 [.rst none]) ∧
    (∃ t, step (inFlightWith readyCore 0x00000000 [.access (wordRead 0x004)]) = .next t) ∧
    ¬ CoreTurn (inFlightWith readyCore 0x00000000 [.access (wordRead 0x004)]) ∧
    ¬ ResetEdge (inFlightWith readyCore 0x00000000 [.access (wordRead 0x004)]) ∧
    Issues (inFlightWith readyCore 0x00000000 [.access (cmdWrite 5)]) 5 [] ∧ readyCore.error = none := by
  refine ⟨⟨_, rfl, by decide⟩, ⟨_, rfl⟩, .inr ⟨[], rfl⟩, ⟨_, rfl⟩, ⟨[], rfl⟩, ⟨_, rfl⟩, ?_, ?_, rfl, rfl⟩
  · rintro (h | ⟨rest, h⟩) <;> cases h
  · rintro ⟨rest, h⟩
    cases h

theorem test_hyp_ErrorRecordLifetime :
    (∃ t, step (inFlight errorCore 0x00000002 keyK) = .next t ∧ t.core.error = none) ∧
    errorCore.error = some ⟨.rounds, 0x00002D10⟩ ∧
    (∃ t, step (writing CoreState.reset 0x00000020) = .next t ∧ t.core.error ≠ none) ∧ CoreState.reset.error = none ∧
    CoreState.reset.err = false := by
  exact ⟨⟨_, rfl, rfl⟩, rfl, ⟨_, rfl, by decide⟩, rfl, rfl⟩

theorem test_hyp_SessionPhase :
    (∃ t, step (inFlight readyCore 0x00000020 keyK) = .next t ∧ t.core.run = true) ∧ readyCore.run = false ∧
    Performs (inFlight readyCore 0x00000020 keyK) .encryptBlock ∧
    (∃ t, step (inFlight runningCore 0x00000001 keyK) = .next t ∧ t.core.run = false) ∧ runningCore.run = true := by
  exact ⟨⟨_, rfl, by decide⟩, rfl, ⟨.inl rfl, ⟨0x00000020, keyK⟩, rfl, by decide⟩, ⟨_, rfl, rfl⟩, rfl⟩

/-- A step that is neither a reset edge nor the perform of `SOFT_RESET`, for the clauses of `WhoWritesWhat`. -/
theorem not_reset {c : CoreState} {w : Word} {d : Quad} (h : decode w ≠ some .softReset) :
    ¬ ResetEdge (inFlight c w d) ∧ ¬ Performs (inFlight c w d) .softReset := by
  refine ⟨?_, ?_⟩
  · rintro ⟨rest, h'⟩
    cases h'
  · rintro ⟨-, l, hl, hd⟩
    cases hl
    exact h hd

/-- Setup registers change: key, rounds and the three validity bits. -/
theorem test_hyp_WhoWritesWhat_setup :
    (∃ t, step (inFlight CoreState.reset 0x00000011 keyK) = .next t ∧ t.core.keyV ≠ false ∧ t.core.kr ≠ Quad.zero) ∧
    (∃ t, step (inFlight CoreState.reset 0x00002C10 keyK) = .next t ∧ t.core.rounds ≠ 7) ∧
    (∃ t, step (inFlight CoreState.reset 0x00010113 keyK) = .next t ∧ t.core.t1V ≠ false) ∧
    (∃ t, step (inFlight CoreState.reset 0x00010213 keyK) = .next t ∧ t.core.t2V ≠ false) ∧
    (∃ t, step (inFlight CoreState.reset 0x00010313 keyK) = .next t ∧ t.core.t3V ≠ false) := by
  exact ⟨⟨_, rfl, by decide, by decide⟩, ⟨_, rfl, by decide⟩, ⟨_, rfl, by decide⟩, ⟨_, rfl, by decide⟩,
    ⟨_, rfl, by decide⟩⟩

/-- The counters, the results and `DIN` change. -/
theorem test_hyp_WhoWritesWhat_block :
    (nextCore (step (inFlight readyCore 0x00000020 Quad.zero))).map
      (fun c => [c.dout0, c.dout1, c.ctrLo, c.fastEpoch, c.slowEpoch]) = some [0x759C3DD2, 0xE09A4CF6, 1, 1, 1] ∧
    (nextCore (step (before readyCore [.access (wordWrite 0x010 5)]))).map (·.din) = some ⟨5, 0, 0, 0⟩ := by
  decide +kernel

theorem test_hyp_StepKeepsTheInvariant :
    agingCore.Inv ∧ ∃ t, step (writing agingCore 0x00000020) = .next t := by
  exact ⟨test_hyp_BothAgingsInOneBlock.1, ⟨_, rfl⟩⟩

theorem test_hyp_TablesAreBijections : Reachable (State.reset.withEvents [.perform]) := .start _

theorem test_hyp_ContractStepsNeverStop :
    agingCore.Inv ∧ (Event.access (wordRead 0x004)).inContract = true ∧ (Event.rst none).inContract = true := by
  exact ⟨test_hyp_BothAgingsInOneBlock.1, by decide, by decide⟩

theorem test_hyp_BlockByTheBusProtocol :
    (before readyCore []).core.latch = none ∧ readyCore.error = none ∧ readyCore.ready = true := by
  exact ⟨rfl, rfl, rfl⟩

end Sys2Proof.Tests
end

section
/-! SUPPORT. Proofs of the statements of 00_scope.md: the core's turn. -/

namespace Sys2Proof.Machine

/-- A perform event is taken from the list and gives the core its turn (R21, R22). -/
theorem step_perform {s : State} {rest : List Event} (h : s.env.events = .perform :: rest) :
    step s = (s.withEvents rest).coreTurn :=
  (step_event h).trans (takeEvent_perform _)

/-- Settles O7: either kind of turn is `coreTurn`, whose outcome the latch decides; taking the event leaves the latch
as it was. -/
theorem stepPerformsTheLatchedCommand : Obligations.StepPerformsTheLatchedCommand := by
  intro s rest
  constructor
  · intro l i hl hd
    have hl' : (s.withEvents rest).core.latch = some l := hl
    exact ⟨fun he => (step_no_events he).trans (coreTurn_latched hl hd),
      fun he => (step_perform he).trans (coreTurn_latched hl' hd)⟩
  · intro hl
    have hl' : (s.withEvents rest).core.latch = none := hl
    exact ⟨fun he => (step_no_events he).trans (coreTurn_idle hl),
      fun he => (step_perform he).trans (coreTurn_idle hl')⟩

end Sys2Proof.Machine
end

section
/-! SUPPORT. What the statements of 10_state.md need of the decoder, of the addresses of `DIN`, and of the kinds of step
named in Sys2Proof/Safety.lean. -/

namespace Sys2Proof

/-- A word that decodes to `i` holds the fields of `i` (R101, R104, R105). -/
theorem fields_of_decode {w : Word} {i : Instr} (h : decode w = some i) :
    opField w = i.opcode ∧ argA w = i.fieldA ∧ argB w = i.fieldB ∧ rsvField w = 0 := by
  rw [decode_fields] at h
  split_ifs at h with h0 h1 h2 h3 h4 h5 h6 h7 <;> cases h
  · exact h0
  · exact h1
  · exact h2
  · exact ⟨h3.1, rfl, h3.2⟩
  · exact h4
  · exact ⟨h5.1, rfl, h5.2⟩
  · exact ⟨h6.1, rfl, rfl, h6.2⟩
  · exact h7

/-- The word that a decoded command encodes to is the decoded word: the fields agree. -/
theorem encode_of_decode {w : Word} {i : Instr} (h : decode w = some i) : encode i = w := by
  obtain ⟨hop, ha, hb, hr⟩ := fields_of_decode h
  obtain ⟨hop', ha', hb', hr'⟩ := Laws.EncodeFields.of_bounds (ha ▸ argA_lt w) (hb ▸ argB_lt w)
  exact eq_of_fields (hop'.trans hop.symm) (ha'.trans ha.symm) (hb'.trans hb.symm) (hr'.trans hr.symm)

end Sys2Proof

namespace Sys2Proof.Machine

/-- The addresses of `DIN0..DIN3` (R33). -/
theorem locate_din_range {a : BitVec 12} {k : Fin 4} (h : locate a = .din k) :
    0x010 ≤ a.toNat ∧ a.toNat ≤ 0x01C := by
  have low : ∀ n : Nat, n < 0x100 → ∀ k : Fin 4, (registerMap.lookup n).getD .reserved = .din k →
      0x010 ≤ n ∧ n ≤ 0x01C := by decide +kernel
  simp only [locate] at h
  split_ifs at h with hlow
  exact low _ hlow k h

/-- Each of the four operand addresses is aligned and names its register (R33). -/
theorem exists_locate_din {a : BitVec 12} (h : a = 0x010 ∨ a = 0x014 ∨ a = 0x018 ∨ a = 0x01C) :
    a.toNat % 4 = 0 ∧ ∃ k, locate a = .din k := by
  rcases h with rfl | rfl | rfl | rfl
  · exact ⟨by decide, 0, rfl⟩
  · exact ⟨by decide, 1, rfl⟩
  · exact ⟨by decide, 2, rfl⟩
  · exact ⟨by decide, 3, rfl⟩

theorem busWrite_din (s : State) {a : BitVec 12} {k : Fin 4} (h : locate a = .din k) (v : Word) :
    s.busWrite a v = .next { s with core := s.core.writeDin k v } := by
  simp [State.busWrite, h]

/-- A host's write to an operand register stores the word and takes the event. -/
theorem step_writeDin {s : State} {a : BitVec 12} {v : Word} {k : Fin 4} {rest : List Event}
    (he : s.env.events = .access (wordWrite a v) :: rest) (ha : a.toNat % 4 = 0) (hk : locate a = .din k) :
    step s = .next { s.withEvents rest with core := s.core.writeDin k v } := by
  rw [step_event he, takeEvent_wordWrite _ v ha, busWrite_din _ hk, State.withEvents_core]

/-- A host's read while nothing is in flight notes the place's word and takes the event. -/
theorem step_wordRead_idle {s : State} {a : BitVec 12} {rest : List Event}
    (he : s.env.events = .access (wordRead a) :: rest) (ha : a.toNat % 4 = 0) (hl : s.core.latch = none) :
    step s = .next ((s.withEvents rest).note (s.core.readLocation (locate a))) := by
  rw [step_event he, takeEvent_wordRead _ ha, busRead_idle (s := s.withEvents rest) hl, State.withEvents_core]

/-- A host's `CMD` write issues its word, the event taken. -/
theorem step_issues {s : State} {w : Word} {rest : List Event} (he : Issues s w rest) :
    step s = (s.withEvents rest).issue w :=
  (step_event he).trans (takeEvent_cmdWrite _ w)

/-- The issue phase of a decoded word, with nothing in flight. -/
theorem step_issues_command {s : State} {w : Word} {rest : List Event} {i : Instr} (he : Issues s w rest)
    (hl : s.core.latch = none) (hd : decode w = some i) : step s = exec i (s.withEvents rest) :=
  (step_issues he).trans (issue_command (s := s.withEvents rest) hl hd)

theorem step_resetEdge {s t : State} (h : step s = .next t) (hr : ResetEdge s) : t.core = CoreState.reset := by
  obtain ⟨rest, he⟩ := hr
  rw [step_event he, takeEvent_rst] at h
  cases h
  rfl

/-- On the core's turn nothing is in flight and the core stays, or the latched command is performed. -/
theorem step_coreTurn {s t : State} (h : step s = .next t) (hc : CoreTurn s) :
    (s.core.latch = none ∧ t.core = s.core) ∨
      ∃ l i, s.core.latch = some l ∧ decode l.cmd = some i ∧ t.core = (performOf i l s.core).release := by
  obtain ⟨u, hu, hturn⟩ : ∃ u : State, u.core = s.core ∧ u.coreTurn = .next t := by
    rcases hc with he | ⟨rest, he⟩
    · exact ⟨s, rfl, (step_no_events he).symm.trans h⟩
    · exact ⟨s.withEvents rest, rfl, (step_perform he).symm.trans h⟩
  rcases coreTurn_cases hturn with ⟨hl, rfl⟩ | ⟨l, i, hl, hd, rfl⟩
  · exact .inl ⟨hu ▸ hl, hu⟩
  · exact .inr ⟨l, i, hu ▸ hl, hd, by rw [hu]⟩

/-- After a step that performs `i`, the core is what the perform of `i` leaves. -/
theorem step_performs {s t : State} {i : Instr} (h : step s = .next t) (hp : Performs s i) :
    ∃ l, t.core = (performOf i l s.core).release := by
  obtain ⟨hc, l, hl, hd⟩ := hp
  rcases step_coreTurn h hc with ⟨hn, -⟩ | ⟨l', i', hl', hd', ht⟩
  · rw [hl] at hn; cases hn
  · rw [hl] at hl'
    cases hl'
    rw [hd] at hd'
    cases hd'
    exact ⟨l, ht⟩

/-- What a step can do to the session: write the latch, the error record and `DIN` alone (`DIN` only at a bus write to
it), reset everything, or perform the latched command. -/
theorem step_session {s t : State} (h : step s = .next t) :
    (∃ latch error din, t.core = { s.core with latch := latch, error := error, din := din } ∧
      (din ≠ s.core.din →
        ∃ a rest k, s.env.events = .access a :: rest ∧ a.kind = .write ∧ locate a.addr = .din k)) ∨
      (ResetEdge s ∧ t.core = CoreState.reset) ∨
      ∃ l i, Performs s i ∧ t.core = (performOf i l s.core).release := by
  rcases step_cases h with hc | ⟨a, rest, k, he, hk, hloc, hc⟩ | ⟨-, -, -, -, code, w', hc⟩ | ⟨-, -, i, -, -, -, hc⟩ |
    ⟨hreset, hc⟩ | ⟨l, i, hturn, hl, hd, hc⟩
  · exact .inl ⟨_, _, _, hc, (absurd rfl ·)⟩
  · exact .inl ⟨_, _, _, hc, fun _ => ⟨a, rest, k, he, hk, hloc⟩⟩
  · exact .inl ⟨_, _, _, hc, (absurd rfl ·)⟩
  · exact .inl ⟨_, _, _, hc, (absurd rfl ·)⟩
  · exact .inr (.inl ⟨hreset, hc⟩)
  · exact .inr (.inr ⟨l, i, ⟨hturn, l, hl, hd⟩, hc⟩)

theorem tableSel_eq_some {t : Nat} {sel : TableSel} :
    tableSel t = some sel ↔ (t = 1 ∧ sel = .t1) ∨ (t = 2 ∧ sel = .t2) ∨ (t = 3 ∧ sel = .t3) := by
  unfold tableSel
  split <;> cases sel <;> simp_all

theorem tableSel_eq_none {t : Nat} : tableSel t = none ↔ ¬ (t = 1 ∨ t = 2 ∨ t = 3) := by
  unfold tableSel
  split <;> simp_all

@[simp] theorem performPermGen_error (t len : Nat) (c : CoreState) : (performPermGen t len c).error = c.error := by
  cases ht : tableSel t with
  | none => rw [performPermGen_none ht]
  | some sel => rw [performPermGen_sel ht, CoreState.installTable_error]

@[simp] theorem performPermGen_run (t len : Nat) (c : CoreState) : (performPermGen t len c).run = c.run := by
  cases ht : tableSel t with
  | none => rw [performPermGen_none ht]
  | some sel => rw [performPermGen_sel ht, CoreState.installTable_run]

/-- A perform of any command but `SOFT_RESET` neither reads nor writes `DIN` (R55, R293). -/
theorem performOf_writeDin {i : Instr} (hi : i ≠ .softReset) (l : Latch) (c : CoreState) (k : Fin 4) (v : Word) :
    performOf i l (c.writeDin k v) = (performOf i l c).writeDin k v := by
  cases i with
  | softReset => exact absurd rfl hi
  | permGen t len =>
    simp only [performOf, performPermGen]
    cases tableSel t with
    | none => rfl
    | some sel => cases sel <;> rfl
  | encryptBlock => simp only [performOf, performEncryptBlock_eq]; rfl
  | _ => rfl

/-- Only `CLEAR_ERR` and `SOFT_RESET` clear an error when performed, and none records one (R37, R269). -/
theorem performOf_error (i : Instr) (l : Latch) (c : CoreState) :
    (performOf i l c).error = c.error ∨
      ((i = .clearErr ∨ i = .softReset) ∧ (performOf i l c).error = none) := by
  cases i with
  | clearErr => exact .inr ⟨.inl rfl, rfl⟩
  | softReset => exact .inr ⟨.inr rfl, rfl⟩
  | permGen t len => exact .inl (performPermGen_error t len c)
  | encryptBlock => exact .inl (performEncryptBlock_error l c)
  | _ => exact .inl rfl

/-- Only `ENCRYPT_BLOCK` sets `RUN`, and only `SOFT_RESET` clears it, when performed (R40, R210). -/
theorem performOf_run (i : Instr) (l : Latch) (c : CoreState) :
    (performOf i l c).run = c.run ∨ (i = .encryptBlock ∧ (performOf i l c).run = true) ∨
      (i = .softReset ∧ (performOf i l c).run = false) := by
  cases i with
  | softReset => exact .inr (.inr ⟨rfl, rfl⟩)
  | encryptBlock => exact .inr (.inl ⟨rfl, performEncryptBlock_run l c⟩)
  | permGen t len => exact .inl (performPermGen_run t len c)
  | _ => exact .inl rfl

end Sys2Proof.Machine
end

section
/-! SUPPORT. Proofs of the statements of 10_state.md: the bijections of R54. -/

namespace Sys2Proof.Machine

theorem isPermutation_identityTable : IsPermutation identityTable := by
  rw [IsPermutation, funext entry_identityTable]
  exact Function.bijective_id

/-- An exchange reads the table through a swap of two indices. -/
theorem isPermutation_exchange {T : Bytes256} (h : IsPermutation T) (i j : Byte) :
    IsPermutation (Bytes256.exchange T i j) := by
  have hswap : Bytes256.entry (Bytes256.exchange T i j) = Bytes256.entry T ∘ Equiv.swap j i := by
    funext k
    rw [entry_exchange, Function.comp_apply, Equiv.swap_apply_def]
    split_ifs <;> rfl
  rw [IsPermutation, hswap]
  exact h.comp (Equiv.swap j i).bijective

theorem isPermutation_age {A B : Bytes256} (hA : IsPermutation A) (hB : IsPermutation B) :
    IsPermutation (age A B) := by
  rw [IsPermutation, show Bytes256.entry (age A B) = Bytes256.entry B ∘ Bytes256.entry A from
    funext fun i => entry_mapEntries A _ i]
  exact hB.comp hA

/-- The generator only exchanges entries, so each step keeps a bijection (R151). -/
theorem isPermutation_foldl_permStep (seed : Bytes256) (len : Nat) (steps : List Byte) {st : Bytes256 × Byte}
    (h : IsPermutation st.1) : IsPermutation (steps.foldl (permStep seed len) st).1 := by
  induction steps generalizing st with
  | nil => exact h
  | cons i rest ih => exact ih (isPermutation_exchange h _ _)

theorem isPermutation_permGen (seed : Bytes256) (len : Nat) : IsPermutation (permGen seed len) :=
  isPermutation_foldl_permStep seed len allBytes isPermutation_identityTable

end Sys2Proof.Machine
end

section
/-! SUPPORT. Proofs of the statements of 10_state.md: the invariant of the core. One lemma an operation, then the
step. -/

namespace Sys2Proof.Machine

theorem lockedOr_eq_none {c : CoreState} {argument : Option ErrorCode} :
    lockedOr c argument = none ↔ c.run = false ∧ argument = none := by
  cases h : c.run <;> simp [lockedOr, h]

/-- A word is latched only when its issue checks pass (R256). -/
theorem check_eq_none_of_latched {c : CoreState} {w : Word} {check : Option ErrorCode} (hl : c.latch = none)
    (h : (c.issueUnlessError w check).latch ≠ none) : check = none := by
  cases check with
  | none => rfl
  | some code =>
    refine absurd ?_ h
    cases he : c.error with
    | some e => rw [issueUnlessError_error he, hl]
    | none => rw [issueUnlessError_clear he, issueChecked_some, CoreState.record_latch, hl]

theorem checkSetRounds_eq_none {n : Nat} {c : CoreState} :
    checkSetRounds n c = none ↔ c.run = false ∧ 1 ≤ n ∧ n ≤ 44 := by
  simp only [checkSetRounds, lockedOr_eq_none, Config.roundsMin, Config.roundsMax]
  split_ifs with h
  · simp; omega
  · simp; omega

theorem checkLoadKey_eq_none {c : CoreState} : checkLoadKey c = none ↔ c.run = false := by
  simp [checkLoadKey, lockedOr_eq_none]

theorem checkLoadSeed_eq_none {w : Nat} {c : CoreState} :
    checkLoadSeed w c = none ↔ c.run = false ∧ w ≤ 63 := by
  simp [checkLoadSeed, lockedOr_eq_none]

theorem checkPermGen_eq_none {t len : Nat} {c : CoreState} :
    checkPermGen t len c = none ↔ c.run = false ∧ (t = 1 ∨ t = 2 ∨ t = 3) ∧ 1 ≤ len ∧ len ≤ 256 := by
  simp only [checkPermGen, lockedOr_eq_none, Config.seedLenMin, Config.seedLenMax]
  cases ht : tableSel t with
  | none => simp [tableSel_eq_none.mp ht]
  | some sel =>
    have hsel : t = 1 ∨ t = 2 ∨ t = 3 := Decidable.by_contra fun hn => by simp [tableSel_eq_none.mpr hn] at ht
    simp [hsel]; omega

theorem checkEncryptBlock_eq_none {c : CoreState} :
    checkEncryptBlock c = none ↔ c.keyV = true ∧ c.t1V = true ∧ c.t2V = true ∧ c.t3V = true := by
  simp [checkEncryptBlock, CoreState.ready, and_assoc]

/-- The command an issue phase latches is admitted (R256). -/
theorem admitted_of_latched {i : Instr} {c : CoreState} (hl : c.latch = none) (h : (issueOf i c).latch ≠ none) :
    Admitted i c := by
  cases i with
  | nop => trivial
  | softReset => trivial
  | clearErr => trivial
  | setRounds n => exact checkSetRounds_eq_none.mp (check_eq_none_of_latched hl h)
  | loadKey => exact checkLoadKey_eq_none.mp (check_eq_none_of_latched hl h)
  | loadSeed w => exact checkLoadSeed_eq_none.mp (check_eq_none_of_latched hl h)
  | permGen t len => exact checkPermGen_eq_none.mp (check_eq_none_of_latched hl h)
  | encryptBlock => exact checkEncryptBlock_eq_none.mp (check_eq_none_of_latched hl h)

/-- The reset core meets the invariant (R58). -/
theorem inv_reset : CoreState.reset.Inv where
  roundsMin := by decide
  roundsMax := by decide
  fastRange := by decide
  slowRange := by decide
  epochsAgree := by decide
  t1Perm := isPermutation_identityTable
  t2Perm := isPermutation_identityTable
  t3Perm := isPermutation_identityTable
  runReady h := nomatch h
  setupZero _ := ⟨rfl, rfl, rfl, rfl, rfl⟩
  keyUnset _ := rfl
  t1Unset _ := rfl
  t2Unset _ := rfl
  t3Unset _ := rfl
  latched _ h := nomatch h

namespace CoreState.Inv

variable {c : CoreState}

theorem record (hc : c.Inv) (code : ErrorCode) (w : Word) : (c.record code w).Inv := { hc with }

theorem writeDin (hc : c.Inv) (k : Fin 4) (v : Word) : (c.writeDin k v).Inv := { hc with }

theorem clearError (hc : c.Inv) : c.clearError.Inv := { hc with }

theorem latchCommand (hc : c.Inv) {w : Word} {i : Instr} (hd : decode w = some i) (ha : Admitted i c) :
    (c.latchCommand w).Inv :=
  { hc with latched := by rintro l ⟨⟩; exact ⟨i, hd, ha⟩ }

theorem release (hc : c.Inv) : c.release.Inv := { hc with latched := nofun }

theorem performSetRounds_release (hc : c.Inv) {n : Nat} (h1 : 1 ≤ n) (h44 : n ≤ 44) :
    (performSetRounds n c).release.Inv := by
  have hn : (performSetRounds n c).release.rounds.toNat = n := by simp; omega
  exact { hc with roundsMin := h1.trans_eq hn.symm, roundsMax := hn.trans_le h44, latched := nofun }

theorem performLoadKey_release (hc : c.Inv) (l : Latch) : (performLoadKey l c).release.Inv :=
  { hc with
    runReady := fun h => ⟨rfl, (hc.runReady h).2⟩
    keyUnset := nofun
    latched := nofun }

theorem performLoadSeed_release (hc : c.Inv) (w : Nat) (l : Latch) : (performLoadSeed w l c).release.Inv :=
  { hc with latched := nofun }

/-- A table that `PERM_GEN` installs is a bijection, and it is valid from then on (R39, R151). -/
theorem installTable_release (hc : c.Inv) (sel : TableSel) {S : Bytes256} (hS : IsPermutation S) :
    (c.installTable sel S).release.Inv := by
  cases sel with
  | t1 =>
    exact { hc with
      t1Perm := hS
      runReady := fun h => let ⟨hk, _, h2, h3⟩ := hc.runReady h; ⟨hk, rfl, h2, h3⟩
      t1Unset := nofun
      latched := nofun }
  | t2 =>
    exact { hc with
      t2Perm := hS
      runReady := fun h => let ⟨hk, h1, _, h3⟩ := hc.runReady h; ⟨hk, h1, rfl, h3⟩
      t2Unset := nofun
      latched := nofun }
  | t3 =>
    exact { hc with
      t3Perm := hS
      runReady := fun h => let ⟨hk, h1, h2, _⟩ := hc.runReady h; ⟨hk, h1, h2, rfl⟩
      t3Unset := nofun
      latched := nofun }

theorem performPermGen_release (hc : c.Inv) (t len : Nat) : (performPermGen t len c).release.Inv := by
  cases ht : tableSel t with
  | none => rw [performPermGen_none ht]; exact hc.release
  | some sel => rw [performPermGen_sel ht]; exact hc.installTable_release sel (isPermutation_permGen c.seed len)

end CoreState.Inv

/-- An epoch register in its range counts modulo its period (R49, R50, R208). -/
theorem epochAfter_toNat {e p : Word} (h : e.toNat < p.toNat) :
    (if e + 1 = p then 0 else e + 1).toNat = (e.toNat + 1) % p.toNat := by
  have h1 : (e + 1).toNat = e.toNat + 1 := by bv_omega
  split_ifs with heq
  · rw [← h1, heq, Nat.mod_self]; rfl
  · have hne : e.toNat + 1 ≠ p.toNat := fun hn => heq (BitVec.eq_of_toNat_eq (h1.trans hn))
    rw [h1, Nat.mod_eq_of_lt (by omega)]

theorem isPermutation_ite {P : Prop} [Decidable P] {S T : Bytes256} (hS : IsPermutation S) (hT : IsPermutation T) :
    IsPermutation (if P then S else T) := by
  split_ifs
  · exact hS
  · exact hT

/-- A performed block keeps the epochs in range and in agreement, ages bijections into bijections, and starts the
RUNNING phase of a session that was ready. -/
theorem CoreState.Inv.performEncryptBlock_release {c : CoreState} (hc : c.Inv) (l : Latch)
    (hready : c.keyV = true ∧ c.t1V = true ∧ c.t2V = true ∧ c.t3V = true) :
    (performEncryptBlock l c).release.Inv := by
  obtain ⟨hkey, h1, h2, h3⟩ := hready
  have hfast : (performEncryptBlock l c).fastEpoch.toNat = (c.fastEpoch.toNat + 1) % 2000 := by
    rw [performEncryptBlock_fastEpoch]
    exact epochAfter_toNat (p := 2000) hc.fastRange
  have hslow : (performEncryptBlock l c).slowEpoch.toNat = (c.slowEpoch.toNat + 1) % 4000000 := by
    rw [performEncryptBlock_slowEpoch]
    exact epochAfter_toNat (p := 4000000) hc.slowRange
  have hagree := hc.epochsAgree
  exact
    { roundsMin := by simpa using hc.roundsMin
      roundsMax := by simpa using hc.roundsMax
      fastRange := by rw [release_fastEpoch, hfast]; omega
      slowRange := by rw [release_slowEpoch, hslow]; omega
      epochsAgree := by rw [release_fastEpoch, release_slowEpoch, hfast, hslow]; omega
      t1Perm := by
        rw [release_t1, performEncryptBlock_t1]
        exact isPermutation_ite (isPermutation_age hc.t1Perm hc.t2Perm) hc.t1Perm
      t2Perm := by
        rw [release_t2, performEncryptBlock_t2]
        exact isPermutation_ite (isPermutation_age hc.t2Perm hc.t3Perm) hc.t2Perm
      t3Perm := by simpa using hc.t3Perm
      runReady := fun _ => by simp [hkey, h1, h2, h3]
      setupZero := by simp
      keyUnset := by simp [hkey]
      t1Unset := by simp [h1]
      t2Unset := by simp [h2]
      t3Unset := by simp [h3]
      latched := nofun }

/-- The perform of an admitted command keeps the invariant. -/
theorem CoreState.Inv.performOf_release {c : CoreState} (hc : c.Inv) {i : Instr} (ha : Admitted i c) (l : Latch) :
    (performOf i l c).release.Inv := by
  cases i with
  | nop => exact hc.release
  | softReset => exact inv_reset.release
  | clearErr => exact hc.clearError.release
  | setRounds n =>
    obtain ⟨-, h1, h44⟩ := ha
    exact hc.performSetRounds_release h1 h44
  | loadKey => exact hc.performLoadKey_release l
  | loadSeed w => exact hc.performLoadSeed_release w l
  | permGen t len => exact hc.performPermGen_release t len
  | encryptBlock => exact hc.performEncryptBlock_release l ha

/-- Settles O57: each kind of step is an operation that keeps the invariant; a latched command was admitted at its
issue, so the invariant's clause on the latch covers the performed one. -/
theorem stepKeepsTheInvariant : Obligations.StepKeepsTheInvariant := by
  intro s t hs h
  rcases step_cases h with ht | ⟨a, -, k, -, -, -, ht⟩ | ⟨-, -, -, -, code, w', ht⟩ | ⟨w, rest, i, he, hl, hd, ht⟩ |
    ⟨-, ht⟩ | ⟨l, i, -, hl, hd, ht⟩
  · rwa [ht]
  · exact ht ▸ hs.writeDin k a.data
  · exact ht ▸ hs.record code w'
  · have hissue : t.core = issueOf i s.core := by
      rw [step_issues_command he hl hd, exec_idle i (s := s.withEvents rest) hl] at h
      cases h
      rfl
    have hlatched : (issueOf i s.core).latch ≠ none := by rw [← hissue, ht]; nofun
    rw [ht, encode_of_decode hd]
    exact hs.latchCommand hd (admitted_of_latched hl hlatched)
  · exact ht ▸ inv_reset
  · obtain ⟨j, hj, ha⟩ := hs.latched l hl
    rw [hd] at hj
    cases hj
    exact ht ▸ hs.performOf_release ha l

/-- Settles O56: the events are no part of the core. -/
theorem resetMeetsTheInvariant : Obligations.ResetMeetsTheInvariant := fun _ => inv_reset

/-- Every reachable state meets the invariant. -/
theorem Reachable.inv {s : State} (h : Reachable s) : s.core.Inv := by
  induction h with
  | start es => exact resetMeetsTheInvariant es
  | next s t _ hstep ih => exact stepKeepsTheInvariant s t ih hstep

/-- Settles O58: the bijections are clauses of the invariant. -/
theorem tablesAreBijections : Obligations.TablesAreBijections := fun _ h =>
  ⟨h.inv.t1Perm, h.inv.t2Perm, h.inv.t3Perm⟩

end Sys2Proof.Machine
end

section
/-! SUPPORT. Proofs of the statements of 10_state.md: the registers, the bus and the issue of a word. -/

namespace Sys2Proof.Machine

/-- Settles O6: the write is taken from the list, and with an empty latch its word goes to the command's issue. -/
theorem stepIssuesTheDecodedCommand : Obligations.StepIssuesTheDecodedCommand :=
  fun _ _ _ _ he hl hd => step_issues_command he hl hd

/-- Settles O8: placing a word puts its `CMD` write first and empties the latch, so the next step is its issue. -/
theorem fetchWordRunsTheDecodedCommand : Obligations.FetchWordRunsTheDecodedCommand := by
  intro s nbits w i hd
  have he : Issues (s.withFetchWord nbits w) (BitVec.ofNat 32 (w % 2 ^ nbits)) s.env.events := rfl
  exact step_issues_command he rfl hd

/-- Settles O41: each of the four addresses names its operand register. -/
theorem operandWrites : Obligations.OperandWrites := by
  intro s a v q rest he hmem
  simp only [List.mem_cons, Prod.mk.injEq, List.not_mem_nil, or_false] at hmem
  rcases hmem with ⟨rfl, rfl⟩ | ⟨rfl, rfl⟩ | ⟨rfl, rfl⟩ | ⟨rfl, rfl⟩
  · exact step_writeDin (k := 0) he (by decide) rfl
  · exact step_writeDin (k := 1) he (by decide) rfl
  · exact step_writeDin (k := 2) he (by decide) rfl
  · exact step_writeDin (k := 3) he (by decide) rfl

theorem errCmd_eq (c : CoreState) : c.errCmd = (c.error.map (·.cmd)).getD 0 := by
  cases h : c.error <;> simp [CoreState.errCmd, h]

/-- Settles O40: each address is aligned and names its register, whose word an idle read notes. -/
theorem registerReads : Obligations.RegisterReads := by
  intro s a v rest he hl hmem
  have hread : a.toNat % 4 = 0 ∧ s.core.readLocation (locate a) = v := by
    rw [← errCmd_eq] at hmem
    simp only [List.mem_cons, Prod.mk.injEq, List.not_mem_nil, or_false] at hmem
    rcases hmem with ⟨rfl, rfl⟩ | ⟨rfl, rfl⟩ | ⟨rfl, rfl⟩ | ⟨rfl, rfl⟩ | ⟨rfl, rfl⟩ | ⟨rfl, rfl⟩ | ⟨rfl, rfl⟩ |
      ⟨rfl, rfl⟩ | ⟨rfl, rfl⟩ | ⟨rfl, rfl⟩ | ⟨rfl, rfl⟩ | ⟨rfl, rfl⟩ | ⟨rfl, rfl⟩ | ⟨rfl, rfl⟩ | ⟨rfl, rfl⟩ |
      ⟨rfl, rfl⟩ | ⟨rfl, rfl⟩ | ⟨rfl, rfl⟩ | ⟨rfl, rfl⟩ <;> exact ⟨by decide, rfl⟩
  obtain ⟨ha, rfl⟩ := hread
  exact step_wordRead_idle he ha hl

/-- Settles O51: a perform neither reads nor writes `DIN`, so the two orders give one core. -/
theorem operandWriteInFlight : Obligations.OperandWriteInFlight := by
  intro s l i a v rest hl hd hi ha
  obtain ⟨hal, k, hk⟩ := exists_locate_din ha
  refine ⟨{ s.withEvents (.perform :: rest) with core := s.core.writeDin k v },
    { s.withEvents (.access (wordWrite a v) :: rest) with core := (performOf i l s.core).release },
    { s.withEvents rest with core := (performOf i l (s.core.writeDin k v)).release },
    step_writeDin rfl hal hk, step_performed hl hd rfl, step_performed hl hd rfl, ?_⟩
  rw [performOf_writeDin hi]
  exact step_writeDin rfl hal hk

/-- The bits of `STATUS`, low first (R35). -/
theorem getLsbD_statusWord (c : CoreState) (i : Nat) :
    c.statusWord.getLsbD i =
      if i < 2 then [c.busy, c.err].getD i false
      else if i < 4 then false
      else if i < 8 then c.errCode.getLsbD (i - 4)
      else [c.keyV, c.t1V, c.t2V, c.t3V, c.run, c.ready].getD (i - 8) false := by
  show BitVec.getLsbD (w := 18 + 1 + 1 + 1 + 1 + 1 + 1 + 4 + 2 + 1 + 1) c.statusWord i = _
  simp only [CoreState.statusWord, BitVec.getLsbD_append, BitVec.getLsbD_ofBool, BitVec.getLsbD_zero]
  by_cases hi : i < 14
  · interval_cases i <;> simp
  · obtain ⟨j, rfl⟩ := Nat.exists_eq_add_of_le' (Nat.le_of_not_lt hi)
    simp

/-- Settles O39, field by field from the bits. -/
theorem statusLayout : Obligations.StatusLayout := by
  refine ⟨rfl, fun s v rest he => ?_, fun c => ?_⟩
  · rw [step_event he, takeEvent_wordWrite _ v (by decide)]
    rfl
  · have hcode : c.statusWord.extractLsb' 4 4 = c.errCode := by
      apply BitVec.eq_of_getLsbD_eq
      intro i hi
      rw [BitVec.getLsbD_extractLsb', getLsbD_statusWord, if_neg (by omega), if_neg (by omega), if_pos (by omega)]
      simp [hi]
    have hlow : c.statusWord.extractLsb' 2 2 = 0 := by
      apply BitVec.eq_of_getLsbD_eq
      intro i hi
      rw [BitVec.getLsbD_extractLsb', getLsbD_statusWord, if_neg (by omega), if_pos (by omega)]
      simp
    have hhigh : c.statusWord.extractLsb' 14 18 = 0 := by
      apply BitVec.eq_of_getLsbD_eq
      intro i hi
      rw [BitVec.getLsbD_extractLsb', getLsbD_statusWord, if_neg (by omega), if_neg (by omega), if_neg (by omega),
        List.getD_eq_default _ _ (by simp; omega)]
      simp
    rw [hcode]
    refine ⟨getLsbD_statusWord c 0, getLsbD_statusWord c 1, hlow, fun he => ?_, fun code n w hmem he => ?_,
      getLsbD_statusWord c 8, getLsbD_statusWord c 9, getLsbD_statusWord c 10, getLsbD_statusWord c 11,
      getLsbD_statusWord c 12, getLsbD_statusWord c 13, hhigh⟩
    · rw [CoreState.errCode, he]
    · have hn : code.bits = n := by cases code <;> simpa [ErrorCode.bits, eq_comm] using hmem
      rw [CoreState.errCode, he]
      exact hn

/-- Settles O49: the registers by evaluation, the arrays by their entries. -/
theorem resetValues : Obligations.ResetValues := by
  refine ⟨rfl, rfl, rfl, rfl, rfl, rfl, rfl, rfl, rfl, rfl, rfl, rfl, rfl, fun i => ?_⟩
  exact ⟨entry_seed_reset i, entry_identityTable i, entry_identityTable i, entry_identityTable i⟩

end Sys2Proof.Machine
end

section
/-! SUPPORT. Proofs of the statements of 10_state.md: which step can change what. -/

namespace Sys2Proof.Machine

/-- Settles O34, by induction on the blocks: each adds one to the counter and keeps the error record. -/
theorem counterCountsBlocks : Obligations.CounterCountsBlocks := by
  intro c ps
  induction ps generalizing c with
  | nil => exact ⟨by simp [afterBlocks], rfl, rfl⟩
  | cons p rest ih =>
    obtain ⟨hctr, hhi, herr⟩ := ih (encryptOne c p)
    refine ⟨?_, hhi, herr.trans (performEncryptBlock_error _ c)⟩
    have h1 : (encryptOne c p).ctrLo = c.ctrLo + 1 := performEncryptBlock_ctrLo _ c
    calc (afterBlocks c (p :: rest)).ctrLo
        = c.ctrLo + 1 + BitVec.ofNat 32 rest.length := by rw [← h1]; exact hctr
      _ = c.ctrLo + BitVec.ofNat 32 (p :: rest).length := by
        rw [List.length_cons, BitVec.ofNat_add, BitVec.add_assoc, BitVec.add_comm 1]; rfl

/-- Settles O52: of the kinds of step only a latching `CMD` write fills the latch, and only a turn or a reset empties
it. -/
theorem busyProtocol : Obligations.BusyProtocol := by
  intro s t h
  refine ⟨fun hl ht => ?_, fun l hl => ⟨?_, fun hturn hreset => ?_, fun w rest he herr => ?_⟩⟩
  · rcases step_cases h with hc | ⟨a, -, k, -, -, -, hc⟩ | ⟨-, -, -, -, code, w', hc⟩ |
      ⟨w, rest, i, he, -, hd, hc⟩ | ⟨-, hc⟩ | ⟨l, i, -, hl', -, -⟩
    · exact absurd (hc ▸ hl) ht
    · exact absurd (hc ▸ hl) ht
    · exact absurd (hc ▸ hl) ht
    · exact ⟨w, rest, he, by rw [hc, encode_of_decode hd, CoreState.latchCommand_latch]⟩
    · exact absurd (hc ▸ rfl) ht
    · exact absurd (hl'.symm.trans hl) nofun
  · rintro (hturn | hreset)
    · rcases step_coreTurn h hturn with ⟨hn, -⟩ | ⟨l', i, -, -, hc⟩
      · exact absurd (hl.symm.trans hn) nofun
      · rw [hc, CoreState.release_latch]
    · rw [step_resetEdge h hreset]; rfl
  · rcases step_cases h with hc | ⟨a, -, k, -, -, -, hc⟩ | ⟨-, -, -, -, code, w', hc⟩ |
      ⟨-, -, -, -, hn, -, -⟩ | ⟨hreset', -⟩ | ⟨-, -, hturn', -, -, -⟩
    · rw [hc, hl]
    · rw [hc, CoreState.writeDin_latch, hl]
    · rw [hc, CoreState.record_latch, hl]
    · exact absurd (hl.symm.trans hn) nofun
    · exact absurd hreset' hreset
    · exact absurd hturn' hturn
  · rw [step_issues he, issue_busy (s := s.withEvents rest) hl] at h
    cases h
    show (s.core.issueWhileBusy w).error = _
    simp [CoreState.issueWhileBusy, herr]

/-- Settles O53: of the kinds of step only a `CMD` write records, where there was no error, and only a reset or a
perform clears. -/
theorem errorRecordLifetime : Obligations.ErrorRecordLifetime := by
  refine ⟨fun s t h => ⟨fun e he => ?_, fun hn ht => ?_⟩, fun c hc => ?_⟩
  · rcases step_cases h with hc | ⟨a, -, k, -, -, -, hc⟩ | ⟨-, -, -, hn, -⟩ | ⟨-, -, i, -, -, -, hc⟩ |
      ⟨hreset, hc⟩ | ⟨l, i, hturn, hl, hd, hc⟩
    · exact .inl (hc ▸ he)
    · exact .inl (hc ▸ he)
    · exact absurd (he.symm.trans hn) nofun
    · exact .inl (hc ▸ he)
    · exact .inr ⟨hc ▸ rfl, .inr (.inr hreset)⟩
    · have hp : Performs s i := ⟨hturn, l, hl, hd⟩
      rw [hc, CoreState.release_error]
      rcases performOf_error i l s.core with hkeep | ⟨rfl | rfl, hclear⟩
      · exact .inl (hkeep.trans he)
      · exact .inr ⟨hclear, .inl hp⟩
      · exact .inr ⟨hclear, .inr (.inl hp)⟩
  · rcases step_cases h with hc | ⟨a, -, k, -, -, -, hc⟩ | ⟨w, rest, he, -⟩ | ⟨w, rest, -, he, -⟩ | ⟨-, hc⟩ |
      ⟨l, i, -, -, -, hc⟩
    · exact absurd (hc ▸ hn) ht
    · exact absurd (hc ▸ hn) ht
    · exact ⟨w, rest, he⟩
    · exact ⟨w, rest, he⟩
    · exact absurd (hc ▸ rfl) ht
    · rw [hc, CoreState.release_error] at ht
      rcases performOf_error i l s.core with hkeep | ⟨-, hclear⟩
      · exact absurd (hkeep.trans hn) ht
      · exact absurd hclear ht
  · have hnone : c.error = none := by simpa [CoreState.err] using hc
    exact ⟨by rw [CoreState.errCode, hnone], by rw [CoreState.errCmd, hnone]⟩

/-- Settles O54: of the three kinds of step, only a reset and the performs of `ENCRYPT_BLOCK` and `SOFT_RESET` write
`RUN`. -/
theorem sessionPhase : Obligations.SessionPhase := by
  intro s t h
  refine ⟨fun hs ht => ?_, fun hs ht => ?_, fun hp => ?_⟩
  · rcases step_session h with ⟨latch, error, din, hc, -⟩ | ⟨-, hc⟩ | ⟨l, i, hp, hc⟩
    · simp [hc, hs] at ht
    · rw [hc] at ht; cases ht
    · rcases performOf_run i l s.core with hkeep | ⟨rfl, -⟩ | ⟨-, hclear⟩
      · simp [hc, hkeep, hs] at ht
      · exact hp
      · simp [hc, hclear] at ht
  · rcases step_session h with ⟨latch, error, din, hc, -⟩ | ⟨hreset, -⟩ | ⟨l, i, hp, hc⟩
    · simp [hc, hs] at ht
    · exact .inr hreset
    · rcases performOf_run i l s.core with hkeep | ⟨-, hset⟩ | ⟨rfl, -⟩
      · simp [hc, hkeep, hs] at ht
      · simp [hc, hset] at ht
      · exact .inl hp
  · obtain ⟨l, hc⟩ := step_performs h hp
    rw [hc]
    exact performEncryptBlock_run l s.core

/-- Settles O55: a step that performs nothing leaves the session as it was, and each perform writes the registers of
its own command. -/
theorem whoWritesWhat : Obligations.WhoWritesWhat := by
  intro s t h hreset hsoft
  rcases step_session h with ⟨latch, error, din, hc, hdin⟩ | ⟨hr, -⟩ | ⟨l, i, hp, hc⟩
  · have hrange : din ≠ s.core.din → ∃ a rest, s.env.events = .access a :: rest ∧ a.kind = .write ∧
        0x010 ≤ a.addr.toNat ∧ a.addr.toNat ≤ 0x01C := fun hne => by
      obtain ⟨a, rest, k, he, hk, hloc⟩ := hdin hne
      exact ⟨a, rest, he, hk, locate_din_range hloc⟩
    simpa [hc] using hrange
  · exact absurd hr hreset
  · cases i with
    | nop => simp [hc, performOf]
    | softReset => exact absurd hp hsoft
    | clearErr => simp [hc, performOf]
    | setRounds n =>
      have hn : ∃ n, Performs s (.setRounds n) := ⟨n, hp⟩
      simp [hc, performOf, hn]
    | loadKey => simp [hc, performOf, hp]
    | loadSeed w =>
      have hw : ∃ w, Performs s (.loadSeed w) := ⟨w, hp⟩
      simp [hc, performOf, hw]
    | permGen t len =>
      have hlen : ∃ len, Performs s (.permGen t len) := ⟨len, hp⟩
      cases ht : tableSel t with
      | none => simp [hc, performOf, performPermGen_none ht]
      | some sel =>
        rcases tableSel_eq_some.mp ht with ⟨rfl, rfl⟩ | ⟨rfl, rfl⟩ | ⟨rfl, rfl⟩ <;>
          simp [hc, performOf, performPermGen_sel ht, hlen]
    | encryptBlock => simp [hc, performOf, hp]

end Sys2Proof.Machine
end

section
/-! SUPPORT. What the statements of 20_memory.md need of the bus: where a write is ignored, what an aligned read or write
does to the whole state, and the reserved offsets. -/

namespace Sys2Proof.Machine

/-- The reserved offsets name nothing (R74). -/
theorem locate_reserved {a : BitVec 12}
    (h : a.toNat = 0x03C ∨ (0x050 ≤ a.toNat ∧ a.toNat ≤ 0x0FC) ∨ (0x200 ≤ a.toNat ∧ a.toNat ≤ 0x3FC)) :
    locate a = .reserved := by
  have low : ∀ n < 0x100, n = 0x03C ∨ 0x050 ≤ n → (registerMap.lookup n).getD .reserved = .reserved := by
    decide +kernel
  rcases h with h | ⟨h1, h2⟩ | ⟨h1, h2⟩
  · rw [locate_low (by omega)]
    exact low _ (by omega) (.inl h)
  · rw [locate_low (by omega)]
    exact low _ (by omega) (.inr h1)
  · exact locate_gap h1 (by omega)

/-- Only `CMD` and `DIN0..DIN3` take a write (R74, R75). -/
theorem busWrite_ignored (s : State) {a : BitVec 12} (hcmd : locate a ≠ .cmd) (hdin : ∀ k, locate a ≠ .din k)
    (v : Word) : s.busWrite a v = .next s := by
  cases h : locate a with
  | cmd => exact absurd h hcmd
  | din k => exact absurd h (hdin k)
  | _ => simp [State.busWrite, h]

/-- A host's aligned write to a place that is neither `CMD` nor an operand register only takes the event. -/
theorem step_wordWrite_ignored {s : State} {a : BitVec 12} {v : Word} {rest : List Event}
    (he : s.env.events = .access (wordWrite a v) :: rest) (ha : a.toNat % 4 = 0) (hcmd : locate a ≠ .cmd)
    (hdin : ∀ k, locate a ≠ .din k) : step s = .next (s.withEvents rest) := by
  rw [step_event he, takeEvent_wordWrite _ v ha, busWrite_ignored _ hcmd hdin]

/-- A host's aligned read is a bus read, the event taken. -/
theorem step_wordRead {s : State} {a : BitVec 12} {rest : List Event}
    (he : s.env.events = .access (wordRead a) :: rest) (ha : a.toNat % 4 = 0) :
    step s = .next ((s.withEvents rest).busRead a) := by
  rw [step_event he, takeEvent_wordRead _ ha]

/-- An access outside the contract is refused by the name `Access.outside` gives it. -/
theorem step_access_outside {s : State} {a : Access} {r : Refusal} {rest : List Event}
    (he : s.env.events = .access a :: rest) (ho : a.outside = some r) : step s = .refused r := by
  rw [step_event he, State.takeEvent, State.takeAccess, ho]

/-- Every read notes one word (R109). -/
theorem exists_busRead_noted (s : State) (a : BitVec 12) : ∃ v, (s.busRead a).env.noted = v :: s.env.noted := by
  unfold State.busRead
  split
  · exact ⟨_, rfl⟩
  · exact ⟨_, rfl⟩

/-- Lane `n` of a seed word is byte `4w + n` of the buffer (R77). -/
theorem lane_seedWord (seed : Bytes256) (w : Nat) {n : Nat} (hn : n < 4) :
    lane (seedWord seed w) n = Bytes256.entry seed (seedIndex w n) := by
  match n, hn with
  | 0, _ => exact lane_ofLanes_0 _ _ _ _
  | 1, _ => exact lane_ofLanes_1 _ _ _ _
  | 2, _ => exact lane_ofLanes_2 _ _ _ _
  | 3, _ => exact lane_ofLanes_3 _ _ _ _

/-- An idle read in the seed window notes the seed word (R77). -/
theorem step_read_seedWindow {s : State} {w : Nat} {rest : List Event} (hw : w ≤ 63) (hl : s.core.latch = none)
    (he : s.env.events = .access (wordRead (BitVec.ofNat 12 (0x100 + 4 * w))) :: rest) :
    step s = .next ((s.withEvents rest).note (seedWord s.core.seed w)) := by
  have ha : (BitVec.ofNat 12 (0x100 + 4 * w)).toNat = 0x100 + 4 * w := by
    rw [BitVec.toNat_ofNat]; omega
  rw [step_wordRead_idle he (by omega) hl, locate_seed ha hw, CoreState.readLocation]

end Sys2Proof.Machine
end

section
/-! SUPPORT. Proofs of the statements of 20_memory.md: the single accesses. -/

namespace Sys2Proof.Machine

/-- Settles O42: a reserved place reads exactly in any state, and is neither `CMD` nor an operand register. -/
theorem reservedOffsets : Obligations.ReservedOffsets := by
  intro s a v rest ha h
  have hloc : locate a = .reserved := locate_reserved h
  refine ⟨fun he => ?_, fun he => step_wordWrite_ignored he ha (by simp [hloc]) (by simp [hloc])⟩
  rw [step_wordRead he ha, busRead_exact _ (by rw [hloc]; rfl), hloc]
  rfl

/-- Settles O43: `CMD` and `DIN0..DIN3` are the only places that take a write, and of all that a step can do to the
session an access is neither a reset nor a perform. -/
theorem hostCannotWriteSessionState : Obligations.HostCannotWriteSessionState := by
  refine ⟨fun s a v rest ha hne hrange he => ?_, fun s t a rest he h => ?_⟩
  · refine step_wordWrite_ignored he ha (fun hcmd => hne (locate_cmd hcmd)) fun k hdin => ?_
    obtain ⟨h1, h2⟩ := locate_din_range hdin
    omega
  · rcases step_session h with ⟨latch, error, din, hc, -⟩ | ⟨⟨rest', hreset⟩, -⟩ | ⟨l, i, ⟨hturn, -⟩, -⟩
    · rw [hc]
    · rw [he] at hreset; cases hreset
    · rcases hturn with hnil | ⟨rest', hperform⟩
      · rw [he] at hnil; cases hnil
      · rw [he] at hperform; cases hperform

/-- Settles O44: an idle read notes the place's word, which the core alone decides; a read while a command is in
flight notes some word. -/
theorem readsHaveNoSideEffect : Obligations.ReadsHaveNoSideEffect := by
  intro s a rest ha he
  cases hl : s.core.latch with
  | none =>
    exact ⟨_, _, step_wordRead_idle he ha hl, rfl, rfl, rfl, fun _ => ⟨rfl, fun _ => step_wordRead_idle rfl ha hl⟩⟩
  | some l =>
    obtain ⟨v, hv⟩ := exists_busRead_noted (s.withEvents rest) a
    exact ⟨_, v, step_wordRead he ha, busRead_core _ _, busRead_events _ _, hv, nofun⟩

/-- Settles O45: the lanes of a seed word are the bytes of the buffer, and a seed word that was written is read back. -/
theorem seedWindow : Obligations.SeedWindow := by
  intro s w hw
  refine ⟨fun rest hl he => ?_, fun l t rest hl ht => ?_⟩
  · exact ⟨_, step_read_seedWindow hw hl he, fun n hn => lane_seedWord s.core.seed w hn⟩
  · rw [exec_latched _ hl] at ht
    cases ht
    have hback : seedWord (performOf (.loadSeed w) l s.core).release.seed w = l.din.w0 :=
      seedWord_putSeedWord s.core.seed hw l.din.w0
    rw [step_read_seedWindow hw rfl rfl, State.withEvents_core, hback]
    rfl

/-- Settles O46: each selector names its table, whose entry an idle read in its window notes. -/
theorem tableWindows : Obligations.TableWindows := by
  intro s n i T rest hi hmem hl he
  obtain ⟨sel, hsel, rfl⟩ : ∃ sel, tableSel n = some sel ∧ s.core.table sel = T := by
    simp only [List.mem_cons, Prod.mk.injEq, List.not_mem_nil, or_false] at hmem
    rcases hmem with ⟨rfl, rfl⟩ | ⟨rfl, rfl⟩ | ⟨rfl, rfl⟩
    · exact ⟨.t1, rfl, rfl⟩
    · exact ⟨.t2, rfl, rfl⟩
    · exact ⟨.t3, rfl, rfl⟩
  have hn : n ≤ 3 := by
    rcases tableSel_eq_some.mp hsel with ⟨rfl, -⟩ | ⟨rfl, -⟩ | ⟨rfl, -⟩ <;> decide
  have ha : (BitVec.ofNat 12 (0x400 * n + 4 * i)).toNat = 0x400 * n + 4 * i := by
    rw [BitVec.toNat_ofNat]; omega
  rw [step_wordRead_idle he (by omega) hl, locate_table hsel hi ha, CoreState.readLocation]

/-- Settles O48: each guard makes `Access.outside` answer its own name; an access during `RST` is refused by the reset
event itself. -/
theorem accessesOutsideTheContract : Obligations.AccessesOutsideTheContract := by
  refine fun s a rest => ⟨fun he => ⟨fun hk => ?_, fun hk hw => ?_, fun hk hw ha => ?_⟩, fun he => ?_⟩
  · exact step_access_outside he (by rw [Access.outside, if_pos hk])
  · exact step_access_outside he (by rw [Access.outside, if_neg hk, if_pos hw])
  · exact step_access_outside he (by rw [Access.outside, if_neg hk, if_neg (not_not.mpr hw), if_pos ha])
  · rw [step_event he, takeEvent_rst_access]

end Sys2Proof.Machine
end

section
/-! SUPPORT. Proofs of the statements of 20_memory.md: a block by the bus protocol of R88. -/

namespace Sys2Proof.Machine

/-- The issue of a command whose checks pass latches it, the event taken. -/
theorem step_issues_latched {s : State} {i : Instr} {rest : List Event} (he : Issues s (encode i) rest)
    (hl : s.core.latch = none) (hd : decode (encode i) = some i)
    (hissue : issueOf i s.core = s.core.latchCommand (encode i)) :
    step s = .next { s.withEvents rest with core := s.core.latchCommand (encode i) } := by
  rw [step_issues_command he hl hd, exec_idle i (s := s.withEvents rest) hl, State.withEvents_core, hissue]

/-- `ISSUE c` (R110) by the host, for a command whose checks pass: after the write, the polls, the core's turn and the
last poll, the core is as the perform leaves it, and the host has noted one word a poll. -/
theorem run_hostISSUE (polls k : Nat) {s : State} {i : Instr} {rest : List Event}
    (he : s.env.events = hostISSUE polls i ++ rest) (hl : s.core.latch = none) (hd : decode (encode i) = some i)
    (hissue : issueOf i s.core = s.core.latchCommand (encode i)) :
    ∃ u : State, u.core = (performOf i ⟨encode i, s.core.din⟩ (s.core.latchCommand (encode i))).release ∧
      u.env.events = rest ∧ u.env.noted.length = s.env.noted.length + polls + 1 ∧
      Sys2Proof.core.run (polls + k + 3) s = Sys2Proof.core.run k u := by
  have hwrite : Issues s (encode i) (List.replicate polls (.access (wordRead 0x004)) ++
      .perform :: .access (wordRead 0x004) :: rest) := by
    simp [Issues, he, hostISSUE, hostCMD, hostWAIT]
  have hstep := step_issues_latched hwrite hl hd hissue
  obtain ⟨t, hcore, hevents, hnoted, hrun⟩ := run_polls polls (k + 2)
    (s := { s with core := s.core.latchCommand (encode i) }) rfl (.perform :: .access (wordRead 0x004) :: rest)
  have hlatch : t.core.latch = some ⟨encode i, s.core.din⟩ := by rw [hcore]; rfl
  have hperform := step_performed hlatch hd hevents
  rw [hcore] at hperform
  have hpoll := step_wordRead_idle (rest := rest) (s :=
    { t.withEvents (.access (wordRead 0x004) :: rest) with
      core := (performOf i ⟨encode i, s.core.din⟩ (s.core.latchCommand (encode i))).release })
    rfl (by decide) rfl
  have hruns := calc Sys2Proof.core.run (polls + k + 3) s
    _ = Sys2Proof.core.run (polls + (k + 2)) _ := run_succ _ hstep
    _ = Sys2Proof.core.run (k + 2) t := hrun
    _ = Sys2Proof.core.run (k + 1) _ := run_succ _ hperform
    _ = Sys2Proof.core.run k _ := run_succ _ hpoll
  refine ⟨_, rfl, rfl, ?_, hruns⟩
  simp [hnoted]

theorem decode_encode_encryptBlock : decode (encode .encryptBlock) = some .encryptBlock := by decide

/-- With no error and `READY` = 1 the issue of `ENCRYPT_BLOCK` latches it (R201). -/
theorem issueOf_encryptBlock {c : CoreState} (he : c.error = none) (hr : c.ready = true) :
    issueOf .encryptBlock c = c.latchCommand (encode .encryptBlock) := by
  rw [issueOf, issueUnlessError_clear he, checkEncryptBlock, if_pos hr, issueChecked_none]

/-- A performed block depends on the latch's first two words and not on `DIN`, which it keeps (R55, R200). -/
theorem performEncryptBlock_release {c : CoreState} (hl : c.latch = none) (l : Latch) (q : Quad) :
    (performEncryptBlock l { c with latch := some l, din := q }).release =
      { encryptOne c (l.din.w0, l.din.w1) with din := q } := by
  simp only [encryptOne, performEncryptBlock_eq, CoreState.release, hl]
  rfl

/-- The host's two operand writes of `ENC` (R110) store the plaintext words in `DIN0` and `DIN1`. -/
theorem run_writePlaintext (k : Nat) {s : State} {p0 p1 : Word} {rest : List Event}
    (he : s.env.events = hostWR 0x010 p0 ++ hostWR 0x014 p1 ++ rest) :
    ∃ u : State, u.core = { s.core with din := { s.core.din with w0 := p0, w1 := p1 } } ∧ u.env.events = rest ∧
      u.env.noted = s.env.noted ∧ Sys2Proof.core.run (k + 2) s = Sys2Proof.core.run k u := by
  have hwrite0 := step_writeDin (k := 0) he (by decide) rfl
  have hwrite1 := step_writeDin (k := 1) (a := 0x014) (v := p1) (rest := rest)
    (s := { s.withEvents (hostWR 0x014 p1 ++ rest) with core := s.core.writeDin 0 p0 }) rfl (by decide) rfl
  have hruns := (run_succ (k + 1) hwrite0).trans (run_succ k hwrite1)
  exact ⟨_, by rfl, by rfl, by rfl, hruns⟩

/-- The host's two result reads of `ENC` (R110), nothing in flight, note `DOUT0` and then `DOUT1`. -/
theorem run_readResults {s : State} (he : s.env.events = hostRD 0x020 ++ hostRD 0x024) (hl : s.core.latch = none) :
    ∃ u : State, u.core = s.core ∧ u.env.events = [] ∧
      u.env.noted = s.core.dout1 :: s.core.dout0 :: s.env.noted ∧ Sys2Proof.core.run 2 s = .next u := by
  have hread0 := step_wordRead_idle he (by decide) hl
  have hread1 := step_wordRead_idle (a := 0x024) (rest := [])
    (s := (s.withEvents (hostRD 0x024)).note s.core.dout0) rfl (by decide) hl
  have hruns := (run_succ 1 hread0).trans (run_succ 0 hread1)
  exact ⟨_, by rfl, by rfl, by rfl, hruns⟩

theorem length_hostENC (polls : Nat) (p0 p1 : Word) : (hostENC polls p0 p1).length = polls + 2 + 3 + 2 := by
  simp [hostENC, hostWR, hostRD, hostISSUE, hostCMD, hostWAIT]

/-- Settles O60: two operand writes, `ISSUE ENCRYPT_BLOCK`, and two reads of the results. -/
theorem blockByTheBusProtocol : Obligations.BlockByTheBusProtocol := by
  intro s polls p0 p1 hl he hr
  obtain ⟨t, htcore, htevents, htnoted, htrun⟩ := run_writePlaintext (polls + 2 + 3) (p0 := p0) (p1 := p1)
    (s := s.withEvents (hostENC polls p0 p1)) (rest := hostISSUE polls .encryptBlock ++ (hostRD 0x020 ++ hostRD 0x024))
    (by simp [hostENC])
  have hissue : issueOf .encryptBlock t.core = t.core.latchCommand (encode .encryptBlock) :=
    issueOf_encryptBlock (by rw [htcore]; exact he) (by rw [htcore]; exact hr)
  obtain ⟨u, hucore, huevents, hunoted, hurun⟩ := run_hostISSUE polls 2 htevents (by rw [htcore]; exact hl)
    decode_encode_encryptBlock hissue
  obtain ⟨v, hvcore, hvevents, hvnoted, hvrun⟩ := run_readResults huevents (by rw [hucore, CoreState.release_latch])
  have hblock : u.core = { encryptOne s.core (p0, p1) with din := { s.core.din with w0 := p0, w1 := p1 } } := by
    rw [hucore, htcore]
    exact performEncryptBlock_release hl _ _
  refine ⟨v, ?_, hvevents, hvcore.trans hblock, ?_, ?_⟩
  · rw [length_hostENC, htrun, hurun, hvrun]
  · rw [hvnoted, hblock]
    simp [encryptOne]
  · rw [hvnoted, List.length_cons, List.length_cons, hunoted, htnoted]
    simp

end Sys2Proof.Machine
end

section
/-! SUPPORT. What the statements of 30_encoding.md need of the decoder: which words decode and to what, in terms of
their fields and of the rows of the opcode map. -/

namespace Sys2Proof

/-- A word decodes to `i` exactly when its fields are those of `i` (R101, R104, R105). -/
theorem decode_eq_some_iff {w : Word} {i : Instr} :
    decode w = some i ↔
      opField w = i.opcode ∧ argA w = i.fieldA ∧ argB w = i.fieldB ∧ rsvField w = 0 := by
  refine ⟨fields_of_decode, fun ⟨hop, ha, hb, hr⟩ => ?_⟩
  rw [decode_fields, hop, ha, hb, hr]
  cases i <;> simp [Instr.opcode, Instr.fieldA, Instr.fieldB]

/-- A command is well formed exactly when its arguments fit `A` and `B` (R101, R108); an unused field is 0 and fits. -/
theorem wellFormed_iff (i : Instr) : i.wellFormed = true ↔ i.fieldA < 2 ^ 8 ∧ i.fieldB < 2 ^ 9 := by
  cases i <;> simp [Instr.wellFormed, Instr.fieldA, Instr.fieldB]

/-- Every mask of the opcode map covers `OP` (R104), so a match fixes the opcode. -/
theorem opField_of_match {w : Word} {r : OpcodeRow} (hr : r ∈ opcodeMap) (h : w &&& r.mask = r.bits) :
    opField w = opField r.bits := by
  have covers : ∀ r ∈ opcodeMap, opField r.mask = BitVec.allOnes 8 := by decide
  rw [← h, opField_and, covers r hr, BitVec.and_allOnes]

/-- No two rows of the opcode map have one opcode, so at most one matches a word (R105). -/
theorem row_unique {w : Word} {r q : OpcodeRow} (hr : r ∈ opcodeMap) (hq : q ∈ opcodeMap)
    (hrw : w &&& r.mask = r.bits) (hqw : w &&& q.mask = q.bits) : r = q := by
  have distinct : ∀ r ∈ opcodeMap, ∀ q ∈ opcodeMap, opField r.bits = opField q.bits → r = q := by decide
  exact distinct r hr q hq ((opField_of_match hr hrw).symm.trans (opField_of_match hq hqw))

theorem matchesWord_iff {r : OpcodeRow} {w : Word} : r.matchesWord w = true ↔ w &&& r.mask = r.bits := beq_iff_eq

/-- The first row that matches a word is the only one, so the order of the rows is no matter. -/
theorem decode_of_match {w : Word} {r : OpcodeRow} (hr : r ∈ opcodeMap) (h : w &&& r.mask = r.bits) :
    decode w = some (r.name.instr w) := by
  obtain ⟨q, hfind⟩ := Option.isSome_iff_exists.mp
    (List.find?_isSome.mpr ⟨r, hr, matchesWord_iff.mpr h⟩ : (opcodeMap.find? (·.matchesWord w)).isSome)
  have hqw : q.matchesWord w = true := List.find?_some (p := (OpcodeRow.matchesWord · w)) hfind
  rw [decode, hfind, row_unique hr (List.mem_of_find?_eq_some hfind) h (matchesWord_iff.mp hqw), Option.map_some]

theorem decode_of_no_match {w : Word} (h : ∀ r ∈ opcodeMap, w &&& r.mask ≠ r.bits) : decode w = none := by
  rw [decode, List.find?_eq_none.mpr fun r hr hm => h r hr (matchesWord_iff.mp hm), Option.map_none]

end Sys2Proof

namespace Sys2Proof.Machine

/-- R106's list of illegal words leaves exactly the words that decode. -/
theorem legalWord_iff {w : Word} : legalWord w = true ↔ ∃ i, decode w = some i := by
  constructor
  · intro h
    simp only [legalWord, Bool.and_eq_true, Bool.or_eq_true, beq_iff_eq] at h
    obtain ⟨hr, (⟨⟨hop, ha⟩, hb⟩ | ⟨hop, hb⟩) | hop⟩ := h
    · obtain (((hop | hop) | hop) | hop) | hop := hop
      · exact ⟨.nop, decode_eq_some_iff.mpr ⟨hop, ha, hb, hr⟩⟩
      · exact ⟨.softReset, decode_eq_some_iff.mpr ⟨hop, ha, hb, hr⟩⟩
      · exact ⟨.clearErr, decode_eq_some_iff.mpr ⟨hop, ha, hb, hr⟩⟩
      · exact ⟨.loadKey, decode_eq_some_iff.mpr ⟨hop, ha, hb, hr⟩⟩
      · exact ⟨.encryptBlock, decode_eq_some_iff.mpr ⟨hop, ha, hb, hr⟩⟩
    · obtain hop | hop := hop
      · exact ⟨.setRounds (argA w), decode_eq_some_iff.mpr ⟨hop, rfl, hb, hr⟩⟩
      · exact ⟨.loadSeed (argA w), decode_eq_some_iff.mpr ⟨hop, rfl, hb, hr⟩⟩
    · exact ⟨.permGen (argA w) (argB w), decode_eq_some_iff.mpr ⟨hop, rfl, rfl, hr⟩⟩
  · rintro ⟨i, hd⟩
    obtain ⟨hop, ha, hb, hr⟩ := fields_of_decode hd
    cases i <;> simp [legalWord, hop, ha, hb, hr, Instr.opcode, Instr.fieldA, Instr.fieldB]

theorem decode_eq_none_iff_legalWord {w : Word} : decode w = none ↔ legalWord w = false := by
  rw [← Bool.not_eq_true, legalWord_iff, Option.eq_none_iff_forall_ne_some, not_exists]

theorem issueIllegal_clear {c : CoreState} (h : c.error = none) (w : Word) :
    c.issueIllegal w = c.record .illegal w :=
  issueUnlessError_clear h w _

/-- While `ERR` = 1 an illegal word is discarded (R255). -/
theorem issueIllegal_error {c : CoreState} (h : c.error ≠ none) (w : Word) : c.issueIllegal w = c := by
  obtain ⟨e, he⟩ := Option.ne_none_iff_exists'.mp h
  exact issueUnlessError_error he w _

/-- The `CMD` write of a word that is no command, with nothing in flight. -/
theorem step_issues_illegal {s : State} {w : Word} {rest : List Event} (he : Issues s w rest)
    (hl : s.core.latch = none) (hd : decode w = none) :
    step s = .next { s.withEvents rest with core := s.core.issueIllegal w } :=
  (step_issues he).trans (issue_illegal (s := s.withEvents rest) hl hd)

/-- The issue of a command whose checks fail records their code and the command's word, and changes nothing else
(R254). -/
theorem exec_records {s : State} {i : Instr} {code : ErrorCode} (hl : s.core.latch = none)
    (hn : s.core.error = none) (hissue : issueOf i s.core = s.core.issueUnlessError (encode i) (some code)) :
    exec i s = .next { s with core := { s.core with error := some ⟨code, encode i⟩ } } := by
  rw [exec_idle i hl, hissue, issueUnlessError_clear hn, issueChecked_some, CoreState.record]

/-- The same at the `CMD` write of a word that decodes to the command: the word recorded is the word written. -/
theorem step_issues_records {s : State} {w : Word} {i : Instr} {code : ErrorCode} {rest : List Event}
    (he : Issues s w rest) (hl : s.core.latch = none) (hn : s.core.error = none) (hd : decode w = some i)
    (hissue : issueOf i s.core = s.core.issueUnlessError (encode i) (some code)) :
    step s = .next { s.withEvents rest with core := { s.core with error := some ⟨code, w⟩ } } := by
  rw [step_issues_command he hl hd, exec_records (s := s.withEvents rest) hl hn hissue, encode_of_decode hd,
    State.withEvents_core]

/-- In the setup phase only the argument check is left (R130). -/
theorem lockedOr_setup {c : CoreState} (h : c.run = false) (argument : Option ErrorCode) :
    lockedOr c argument = argument := by
  simp [lockedOr, h]

/-- R131: the round count is 1 to 44. -/
theorem checkSetRounds_rounds {n : Nat} {c : CoreState} (hrun : c.run = false) (hn : n < 1 ∨ 44 < n) :
    checkSetRounds n c = some .rounds := by
  rw [checkSetRounds, lockedOr_setup hrun]
  exact if_pos hn

/-- R133: the seed word index is 0 to 63. -/
theorem checkLoadSeed_arg {w : Nat} {c : CoreState} (hrun : c.run = false) (hw : 63 < w) :
    checkLoadSeed w c = some .arg := by
  rw [checkLoadSeed, lockedOr_setup hrun, if_pos hw]

/-- R152: a selector that names no table is refused before the length is looked at. -/
theorem checkPermGen_arg {t len : Nat} {c : CoreState} (hrun : c.run = false) (ht : tableSel t = none) :
    checkPermGen t len c = some .arg := by
  rw [checkPermGen, lockedOr_setup hrun, ht]
  rfl

/-- R152: the seed length is 1 to 256. -/
theorem checkPermGen_seedLen {t len : Nat} {sel : TableSel} {c : CoreState} (hrun : c.run = false)
    (ht : tableSel t = some sel) (hlen : len < 1 ∨ 256 < len) : checkPermGen t len c = some .seedLen := by
  rw [checkPermGen, lockedOr_setup hrun, ht, if_neg (by simp)]
  exact if_pos hlen

end Sys2Proof.Machine
end

section
/-! SUPPORT. Proofs of the statements of 30_encoding.md. -/

namespace Sys2Proof.Machine

/-- Settles O1: arguments that fit their fields are read back from the packed word, and the fields decide the
command. -/
theorem decodeOfEncode : Obligations.DecodeOfEncode := by
  intro i hwf
  obtain ⟨ha, hb⟩ := (wellFormed_iff i).mp hwf
  exact decode_eq_some_iff.mpr (Laws.EncodeFields.of_bounds ha hb)

/-- Settles O2: the arguments come from the fields of the word, so they fit, and packed they give the word again. -/
theorem encodeOfDecode : Obligations.EncodeOfDecode := by
  intro w i hd
  obtain ⟨-, ha, hb, -⟩ := fields_of_decode hd
  exact ⟨(wellFormed_iff i).mpr ⟨ha ▸ argA_lt w, hb ▸ argB_lt w⟩, encode_of_decode hd⟩

/-- Settles O3: twelve fixed words, evaluated. -/
theorem chosenWordsDecode : Obligations.ChosenWordsDecode := by
  unfold Obligations.ChosenWordsDecode
  decide

/-- Settles O4: a match fixes the opcode and no two rows share one; each of the four words decodes, and its argument
check fails. -/
theorem opcodeRowsDecide : Obligations.OpcodeRowsDecide := by
  have hrounds : decode 0x00002D10 = some (.setRounds 45) := by decide
  have hseed : decode 0x00004012 = some (.loadSeed 64) := by decide
  have hsel : decode 0x000C0013 = some (.permGen 0 12) := by decide
  have hlen : decode 0x00000113 = some (.permGen 1 0) := by decide
  refine ⟨fun _ _ _ => row_unique, fun _ _ => decode_of_match, fun _ => decode_of_no_match, hrounds, hseed, hsel,
    hlen, fun s w code rest he hl hn hrun hmem => ?_⟩
  simp only [List.mem_cons, Prod.mk.injEq, List.not_mem_nil, or_false] at hmem
  obtain ⟨rfl, rfl⟩ | ⟨rfl, rfl⟩ | ⟨rfl, rfl⟩ | ⟨rfl, rfl⟩ := hmem
  · exact step_issues_records he hl hn hrounds (by rw [issueOf, checkSetRounds_rounds hrun (by decide)])
  · exact step_issues_records he hl hn hseed (by rw [issueOf, checkLoadSeed_arg hrun (by decide)])
  · exact step_issues_records he hl hn hsel (by rw [issueOf, checkPermGen_arg hrun rfl])
  · exact step_issues_records he hl hn hlen (by rw [issueOf, checkPermGen_seedLen hrun rfl (by decide)])

/-- Settles O5: the legal words are those that decode, and any other goes to `issueIllegal`. -/
theorem illegalWords : Obligations.IllegalWords := by
  refine ⟨fun w => decode_eq_none_iff_legalWord, fun s w rest he hl hw => ?_⟩
  have hstep := step_issues_illegal he hl (decode_eq_none_iff_legalWord.mpr hw)
  refine ⟨fun hn => ?_, fun hn => ?_⟩
  · rw [hstep, issueIllegal_clear hn, CoreState.record]
  · rw [hstep, issueIllegal_error hn]
    rfl

end Sys2Proof.Machine
end

section
/-! SUPPORT. What the statements of 40_session_setup.md need: the phase lock, a command that its checks let through, what
a setup command leaves alone, the word of a command with one argument, and the bytes of a written seed word. -/

namespace Sys2Proof

/-- A packed word with `A` alone, as the shift and OR of 40_session_setup.md R131 and R133. -/
theorem pack_argA (op : Byte) {a : Nat} (ha : a < 256) :
    pack op a 0 = op.setWidth 32 ||| (BitVec.ofNat 32 a <<< 8) := by
  simp [pack_or op ha (b := 0) (by decide)]

theorem encode_loadKey : encode .loadKey = 0x00000011 := by decide

end Sys2Proof

namespace Sys2Proof.Machine

/-- In the RUNNING phase the lock comes before the argument check (R130). -/
theorem lockedOr_running {c : CoreState} (h : c.run = true) (argument : Option ErrorCode) :
    lockedOr c argument = some .locked := by
  simp [lockedOr, h]

/-- The issue checks of every setup command are behind the lock (R130). -/
theorem issueOf_setup_running {i : Instr} {c : CoreState} (hi : isSetup i = true) (hrun : c.run = true) :
    issueOf i c = c.issueUnlessError (encode i) (some .locked) := by
  cases i with
  | setRounds n => rw [issueOf, checkSetRounds, lockedOr_running hrun]
  | loadKey => rw [issueOf, checkLoadKey, lockedOr_running hrun]
  | loadSeed w => rw [issueOf, checkLoadSeed, lockedOr_running hrun]
  | permGen t len => rw [issueOf, checkPermGen, lockedOr_running hrun]
  | _ => cases hi

/-- A setup command in the RUNNING phase records `E_LOCKED` (R130). -/
theorem exec_setup_running {i : Instr} {s : State} (hi : isSetup i = true) (hl : s.core.latch = none)
    (hn : s.core.error = none) (hrun : s.core.run = true) :
    exec i s = .next { s with core := { s.core with error := some ⟨.locked, encode i⟩ } } :=
  exec_records hl hn (issueOf_setup_running hi hrun)

/-- The issue of a command whose checks pass puts the command and `DIN` into the latch, and changes nothing else
(R256). -/
theorem exec_latches {s : State} {i : Instr} (hl : s.core.latch = none) (hn : s.core.error = none)
    (hissue : issueOf i s.core = s.core.issueUnlessError (encode i) none) :
    exec i s = .next { s with core := { s.core with latch := some ⟨encode i, s.core.din⟩ } } := by
  rw [exec_idle i hl, hissue, issueUnlessError_clear hn, issueChecked_none, CoreState.latchCommand]

/-- The perform of a setup command writes neither the counters, nor the results, nor the phase (R130). -/
theorem performOf_setup_keeps {i : Instr} (hi : isSetup i = true) (l : Latch) (c : CoreState) :
    (performOf i l c).ctrLo = c.ctrLo ∧ (performOf i l c).fastEpoch = c.fastEpoch ∧
      (performOf i l c).slowEpoch = c.slowEpoch ∧ (performOf i l c).dout0 = c.dout0 ∧
      (performOf i l c).dout1 = c.dout1 ∧ (performOf i l c).run = c.run := by
  cases i with
  | setRounds n => simp [performOf]
  | loadKey => simp [performOf]
  | loadSeed w => simp [performOf]
  | permGen t len =>
    cases ht : tableSel t with
    | none => simp [performOf, performPermGen_none ht]
    | some sel => simp [performOf, performPermGen_sel ht]
  | _ => cases hi

/-- Byte `4w + n` of a written seed word is its lane `n` (R133). -/
theorem entry_putSeedWord_same (seed : Bytes256) {w n : Nat} (hw : w ≤ 63) (hn : n < 4) (v : Word) :
    Bytes256.entry (putSeedWord seed w v) (seedIndex w n) = lane v n := by
  rw [← lane_seedWord _ _ hn, seedWord_putSeedWord _ hw]

/-- The bytes outside a written seed word stay (R133). -/
theorem entry_putSeedWord_outside (seed : Bytes256) {w : Nat} (hw : w ≤ 63) (v : Word) {j : Byte}
    (hj : j.toNat < 4 * w ∨ 4 * w + 3 < j.toNat) :
    Bytes256.entry (putSeedWord seed w v) j = Bytes256.entry seed j := by
  have hne : ∀ n < 4, j ≠ seedIndex w n := by
    rintro n hn rfl
    rw [seedIndex_toNat hw hn] at hj
    omega
  simp only [putSeedWord, entry_put_ne _ _ (hne 0 (by decide)), entry_put_ne _ _ (hne 1 (by decide)),
    entry_put_ne _ _ (hne 2 (by decide)), entry_put_ne _ _ (hne 3 (by decide))]

end Sys2Proof.Machine
end

section
/-! SUPPORT. Proofs of the statements of 40_session_setup.md. -/

namespace Sys2Proof.Machine

/-- Settles O14: the lock comes first in the checks of every setup command. An issue writes the latch and the error
record at most, and the perform of a setup command none of the six registers. -/
theorem setupCommandsAreLocked : Obligations.SetupCommandsAreLocked := by
  refine fun i s hi => ⟨exec_setup_running hi, fun t ht => ?_⟩
  cases hl : s.core.latch with
  | none =>
    rw [exec_idle i hl] at ht
    cases ht
    rcases issueOf_cases i s.core with ⟨hissue, -⟩ | ⟨-, code, hissue⟩ | hissue <;> simp [hissue]
  | some l =>
    rw [exec_latched i hl] at ht
    cases ht
    exact performOf_setup_keeps hi l s.core

/-- Settles O15: the lock and the range check decide the issue, and a count of at most 44 fits the 6-bit field. -/
theorem setRoundsCommand : Obligations.SetRoundsCommand := by
  refine fun n s => ⟨pack_argA 0x10, exec_setup_running rfl, fun hl hn hrun hrange => ?_,
    fun hl hn hrun h1 h44 => ?_, fun l hl h1 h44 => ⟨BitVec.ofNat 6 n, ?_, exec_latched _ hl⟩⟩
  · exact exec_records hl hn (by rw [issueOf, checkSetRounds_rounds hrun hrange])
  · exact exec_latches hl hn (by rw [issueOf, checkSetRounds_eq_none.mpr ⟨hrun, h1, h44⟩])
  · rw [BitVec.toNat_ofNat]
    omega

/-- Settles O16: the lock is the only check, and the perform takes the key from the latch. -/
theorem loadKeyCommand : Obligations.LoadKeyCommand := by
  refine fun s => ⟨encode_loadKey, fun hl hn hrun => ?_, fun hl hn hrun => ?_, fun l hl => exec_latched _ hl⟩
  · rw [exec_setup_running rfl hl hn hrun, encode_loadKey]
  · rw [exec_latches hl hn (by rw [issueOf, checkLoadKey_eq_none.mpr hrun]), encode_loadKey]

/-- Settles O17: the lock and the index check decide the issue, and the perform writes the four bytes of the seed
word. -/
theorem loadSeedCommand : Obligations.LoadSeedCommand := by
  refine fun w s => ⟨pack_argA 0x12, exec_setup_running rfl, fun hl hn hrun hrange => ?_, fun hl hn hrun hw => ?_,
    fun l hl hw => ⟨putSeedWord s.core.seed w l.din.w0, exec_latched _ hl, fun n hn => ?_, fun j hj => ?_⟩⟩
  · exact exec_records hl hn (by rw [issueOf, checkLoadSeed_arg hrun hrange])
  · exact exec_latches hl hn (by rw [issueOf, checkLoadSeed_eq_none.mpr ⟨hrun, hw⟩])
  · exact entry_putSeedWord_same s.core.seed hw hn l.din.w0
  · exact entry_putSeedWord_outside s.core.seed hw l.din.w0 hj

end Sys2Proof.Machine
end

section
/-! SUPPORT. What the statements of 41_permutation.md need: one step of the generator's loop, the seed bytes it reads,
and the perform of `PERM_GEN` for a selector that names a table. -/

namespace Sys2Proof.Machine

/-- A further value of `i` is one further step on what the earlier ones left (R150). -/
theorem permLoop_concat (seed : Bytes256) (len : Nat) (earlier : List Byte) (i : Byte) :
    permLoop seed len (earlier ++ [i]) = permStep seed len (permLoop seed len earlier) i :=
  List.foldl_concat ..

/-- The key index `i mod L` is below `L`, so the bytes at `L` and above are not read (R152). -/
theorem keyByte_congr {seed seed' : Bytes256} {len : Nat} (hlen : 1 ≤ len)
    (h : ∀ j : Byte, j.toNat < len → Bytes256.entry seed j = Bytes256.entry seed' j) :
    keyByte seed len = keyByte seed' len := by
  funext i
  refine h _ ?_
  rw [BitVec.toNat_ofNat]
  exact (Nat.mod_le _ _).trans_lt (Nat.mod_lt _ hlen)

/-- A step reads the seed through its key byte alone. -/
theorem permStep_congr {seed seed' : Bytes256} {len : Nat} (h : keyByte seed len = keyByte seed' len) :
    permStep seed len = permStep seed' len := by
  funext st i
  rw [permStep, permStep, h]

theorem permGen_congr {seed seed' : Bytes256} {len : Nat} (h : keyByte seed len = keyByte seed' len) :
    permGen seed len = permGen seed' len := by
  rw [permGen, permGen, permLoop, permLoop, permStep_congr h]

/-- The perform of `PERM_GEN` installs the generated table (R152). -/
theorem exec_permGen_latched {t : Nat} {sel : TableSel} {s : State} {l : Latch} (ht : tableSel t = some sel)
    (len : Nat) (hl : s.core.latch = some l) :
    exec (.permGen t len) s
      = .next { s with core := (s.core.installTable sel (permGen s.core.seed len)).release } := by
  rw [exec_latched _ hl, performOf, performPermGen_sel ht]

end Sys2Proof.Machine
end

section
/-! SUPPORT. Proofs of the statements of 41_permutation.md. -/

namespace Sys2Proof.Machine

/-- Settles O28: the identity is a bijection and each step exchanges two entries. -/
theorem permGenIsAPermutation : Obligations.PermGenIsAPermutation :=
  isPermutation_permGen

/-- Settles O29: the loop is a fold of one step that exchanges two entries, and the step reads the seed through
`keyByte` alone. -/
theorem permGenFollowsItsLoop : Obligations.PermGenFollowsItsLoop := by
  refine ⟨fun seed len _ _ => ⟨entry_identityTable, rfl, fun earlier i k j x hk hj => ?_, rfl⟩,
    fun seed seed' len h1 _ hagree => permGen_congr (keyByte_congr h1 hagree)⟩
  have hstep : permLoop seed len (earlier ++ [i])
      = (Bytes256.exchange (permLoop seed len earlier).1 i j, j) := by
    rw [permLoop_concat, hj, hk]
    rfl
  rw [hstep]
  exact ⟨rfl, entry_exchange _ i j x⟩

/-- Settles O18: the lock, the selector and the length decide the issue in this order, and the perform installs the
generated table. -/
theorem permGenCommand : Obligations.PermGenCommand := by
  refine fun t len s => ⟨pack_or 0x13, fun hl hn => ⟨exec_setup_running rfl hl hn, fun hrun h1 h2 h3 => ?_,
    fun hrun ht hlen => ?_, fun hrun ht h1 h256 => ?_⟩, fun l hl _ _ => ⟨?_, ?_, ?_⟩⟩
  · have ht : tableSel t = none := tableSel_eq_none.mpr (by simp [h1, h2, h3])
    exact exec_records hl hn (by rw [issueOf, checkPermGen_arg hrun ht])
  · obtain ⟨sel, hsel⟩ : ∃ sel, tableSel t = some sel :=
      Option.ne_none_iff_exists'.mp fun hnone => tableSel_eq_none.mp hnone ht
    exact exec_records hl hn (by rw [issueOf, checkPermGen_seedLen hrun hsel (hlen.imp_left (by omega))])
  · exact exec_latches hl hn (by rw [issueOf, checkPermGen_eq_none.mpr ⟨hrun, ht, h1, h256⟩])
  · rintro rfl
    exact exec_permGen_latched (sel := .t1) rfl len hl
  · rintro rfl
    exact exec_permGen_latched (sel := .t2) rfl len hl
  · rintro rfl
    exact exec_permGen_latched (sel := .t3) rfl len hl

end Sys2Proof.Machine
end

section
/-! SUPPORT. What the statements of 42_block_round.md need: the bits of a rotation, and each part of the block's state
after `n` rounds. -/

namespace Sys2Proof.Machine

/-- A rotation left by `n` reads bit `i - n` modulo 32 (R14). -/
theorem getLsbD_rotl32 (x : Word) {n i : Nat} (hn : n < 32) (hi : i < 32) :
    (rotl32 x n).getLsbD i = x.getLsbD ((i + (32 - n)) % 32) := by
  rw [rotl32, BitVec.getLsbD_or, BitVec.getLsbD_shiftLeft, BitVec.getLsbD_ushiftRight]
  by_cases h : i < n
  · have hwrap : (i + (32 - n)) % 32 = 32 - n + i := by omega
    simp [h, hwrap]
  · have hlow : (i + (32 - n)) % 32 = i - n := by omega
    have hout : x.getLsbD (32 - n + i) = false := BitVec.getLsbD_of_ge x _ (by omega)
    simp [h, hi, hlow, hout]

/-- The round undone for a known key (R172): XOR is its own inverse. -/
theorem cipherRound_inverse {l r k l' r' : Word} (h : cipherRound l r k = (l', r')) :
    l = r' ∧ r = l' ^^^ roundF r' ^^^ k := by
  obtain ⟨rfl, rfl⟩ := Prod.mk.inj h
  refine ⟨rfl, ?_⟩
  calc r = r ^^^ k ^^^ k := by rw [BitVec.xor_assoc, BitVec.xor_self, BitVec.xor_zero]
    _ = roundF l ^^^ (r ^^^ k) ^^^ roundF l ^^^ k := by
      rw [BitVec.xor_comm (roundF l), BitVec.xor_assoc (r ^^^ k), BitVec.xor_self, BitVec.xor_zero]
    _ = roundF l ^^^ r ^^^ k ^^^ roundF l ^^^ k := by rw [BitVec.xor_assoc (roundF l) r k]

/-- One further round is one round on what the earlier ones left (R178). -/
theorem blockRounds_succ (n : Nat) (st : RoundState) : blockRounds (n + 1) st = blockRound (blockRounds n st) := by
  induction n generalizing st with
  | zero => rfl
  | succ n ih => exact ih (blockRound st)

/-- A refresh writes the low two bits of the constant alone (R174). -/
theorem refreshConstant_upper (c : Word) (seq : BitVec 44) :
    refreshConstant c seq &&& 0xFFFFFFFC = c &&& 0xFFFFFFFC := by
  have hbit : ∀ b : Bool, (BitVec.ofBool b).setWidth 32 &&& (0xFFFFFFFC : Word) = 0#32 := by decide
  rw [refreshConstant, BitVec.and_or_distrib_right, hbit, BitVec.and_assoc, BitVec.and_self, BitVec.or_zero]

section
variable (l r : Word) (kr : Quad) (n : Nat)

/-- The sequence register has emitted its low `n` bits after `n` rounds (R173). -/
theorem blockRounds_seq : (blockRounds n (blockStart l r kr)).seq = Config.lfsrSeed >>> n := by
  induction n with
  | zero => rfl
  | succ n ih => rw [blockRounds_succ, blockRound, ih, ← BitVec.shiftRight_add]

/-- The upper bits of the constant register keep their start value (R174). -/
theorem blockRounds_c_upper : (blockRounds n (blockStart l r kr)).c &&& 0xFFFFFFFC = 0xFFFFFFFC := by
  induction n with
  | zero => exact (by decide : Config.constInit &&& 0xFFFFFFFC = 0xFFFFFFFC)
  | succ n ih => rw [blockRounds_succ, blockRound, refreshConstant_upper, ih]

/-- Round `n` refreshes the constant to its upper bits and bit `n` of the seed, whatever the data and the key. -/
theorem refreshConstant_blockRounds :
    refreshConstant (blockRounds n (blockStart l r kr)).c (blockRounds n (blockStart l r kr)).seq
      = roundConstant n := by
  rw [refreshConstant, blockRounds_c_upper, blockRounds_seq, BitVec.getLsbD_ushiftRight, Nat.add_zero]
  rfl

/-- The key register follows the key schedule (R176, R180). -/
theorem blockRounds_kr : (blockRounds n (blockStart l r kr)).kr = keySchedule kr n := by
  induction n with
  | zero => rfl
  | succ n ih => rw [blockRounds_succ, blockRound, refreshConstant_blockRounds, ih, keySchedule]

/-- The data pair takes the rounds keyed by `KR[0]` of the key schedule (R177). -/
theorem blockRounds_data :
    ((blockRounds n (blockStart l r kr)).l, (blockRounds n (blockStart l r kr)).r) = dataPair l r kr n := by
  induction n with
  | zero => rfl
  | succ n ih => rw [blockRounds_succ, blockRound, dataPair, ← ih, blockRounds_kr]

end

/-- The primitive in closed form: the feed-forward of R181 and the key register of R179. -/
theorem blockPrim_eq (l r : Word) (kr : Quad) (n : Nat) :
    blockPrim l r kr n = ((l ^^^ (dataPair l r kr n).1, r ^^^ (dataPair l r kr n).2), keySchedule kr n) := by
  rw [blockPrim, blockRounds_kr, ← blockRounds_data]

/-- One block advances the key register by `ROUNDS` key steps, whatever the plaintext and the counter (R179). -/
theorem encryptOne_kr (c : CoreState) (p : Word × Word) :
    (encryptOne c p).kr = keySchedule c.kr c.rounds.toNat := by
  rw [encryptOne, performEncryptBlock_kr, blockOutput, blockPrim_eq]

@[simp] theorem encryptOne_rounds (c : CoreState) (p : Word × Word) : (encryptOne c p).rounds = c.rounds :=
  performEncryptBlock_rounds _ c

end Sys2Proof.Machine
end

section
/-! SUPPORT. Proofs of the statements of 42_block_round.md. -/

namespace Sys2Proof.Machine

/-- Settles O24: the refresh keeps the upper bits and takes the seed's bit; the list of R175 is read off the 44 bits of
the seed. -/
theorem roundConstantIsTheSeedBit : Obligations.RoundConstantIsTheSeedBit := by
  refine fun l r kr i => ⟨?_, ?_⟩
  · rw [blockRounds_succ]
    exact refreshConstant_blockRounds l r kr i
  · revert i
    decide

/-- Settles O25: the primitive XORs its input with the pair after `n` rounds. -/
theorem blockPrimitiveClosedForm : Obligations.BlockPrimitiveClosedForm := blockPrim_eq

/-- Settles O27, by induction on the blocks: each advances the key register by the same number of key steps. -/
theorem keyRegisterIsCarried : Obligations.KeyRegisterIsCarried := by
  intro c ps
  induction ps generalizing c with
  | nil => rfl
  | cons p rest ih =>
    calc (afterBlocks c (p :: rest)).kr
        = (fun kr => keySchedule kr (encryptOne c p).rounds.toNat)^[rest.length] (encryptOne c p).kr :=
          ih (encryptOne c p)
      _ = (fun kr => keySchedule kr c.rounds.toNat)^[(p :: rest).length] c.kr := by
        rw [encryptOne_rounds, encryptOne_kr, List.length_cons, Function.iterate_succ_apply]

/-- Settles O23: the two rotations of `F` bit by bit, the round and the key step as R171 and R176 write them, and the
round undone. -/
theorem roundAndKeyStep : Obligations.RoundAndKeyStep := by
  refine ⟨fun x i hi => ?_, fun _ _ _ => rfl, fun _ _ _ _ _ => cipherRound_inverse, fun _ _ => rfl⟩
  rw [roundF, BitVec.getLsbD_xor, BitVec.getLsbD_and, getLsbD_rotl32 x (by decide) hi,
    getLsbD_rotl32 x (by decide) hi]
  rfl

/-- Settles O26: a key step moves words 1 to 3 down, so a word reaches `KR[0]` after at most three steps. -/
theorem firstRoundKeys : Obligations.FirstRoundKeys :=
  fun _ => ⟨rfl, rfl, rfl, rfl, fun _ => ⟨rfl, rfl, rfl, rfl⟩⟩

end Sys2Proof.Machine
end

section
/-! SUPPORT. What the statements of 43_keystream.md need of words and tables: the lanes of a word built from four bytes,
and the XOR of blocks. -/

namespace Sys2Proof.Machine

/-- Lane `n` of a word is the byte it was built from. -/
theorem lane_ofLanes (b : Nat → Byte) {n : Nat} (hn : n < 4) : lane (ofLanes (b 3) (b 2) (b 1) (b 0)) n = b n := by
  match n, hn with
  | 0, _ => exact lane_ofLanes_0 _ _ _ _
  | 1, _ => exact lane_ofLanes_1 _ _ _ _
  | 2, _ => exact lane_ofLanes_2 _ _ _ _
  | 3, _ => exact lane_ofLanes_3 _ _ _ _

theorem lane_substitute (T : Bytes256) (w : Word) {n : Nat} (hn : n < 4) :
    lane (substitute T w) n = Bytes256.entry T (lane w n) :=
  lane_ofLanes (fun k => Bytes256.entry T (lane w k)) hn

theorem lane_bswap32 (x : Word) {n : Nat} (hn : n < 4) : lane (bswap32 x) n = lane x (3 - n) := by
  simpa [bswap32] using lane_ofLanes (fun k => lane x (3 - k)) hn

@[simp] theorem substitute_identityTable (w : Word) : substitute identityTable w = w := by
  simp only [substitute, entry_identityTable, ofLanes_lanes]

@[simp] theorem entry_age (A B : Bytes256) (i : Byte) :
    Bytes256.entry (age A B) i = Bytes256.entry B (Bytes256.entry A i) :=
  entry_mapEntries A _ i

/-- A pad that stands on both sides of an XOR cancels. -/
theorem xor_xor_xor_cancel_left (k x y : Word) : (k ^^^ x) ^^^ (k ^^^ y) = x ^^^ y := by
  rw [BitVec.xor_comm k x, BitVec.xor_assoc, xor_cancel_left]

/-- A pad applied twice cancels (R206). -/
theorem xorBlock_xorBlock_self (k p : Word × Word) : xorBlock k (xorBlock k p) = p := by
  simp only [xorBlock, xor_cancel_left]

/-- Two blocks under one pad: their XOR is free of it (R216). -/
theorem xorBlock_common_pad (k p q : Word × Word) : xorBlock (xorBlock k p) (xorBlock k q) = xorBlock p q := by
  simp only [xorBlock, xor_xor_xor_cancel_left]

end Sys2Proof.Machine
end

section
/-! SUPPORT. Proofs of the statements of 43_keystream.md: substitution and aging of single words and tables. -/

namespace Sys2Proof.Machine

/-- Settles O30: a substituted or byte-reversed word is built from its four lanes. -/
theorem substitutionByLanes : Obligations.SubstitutionByLanes :=
  ⟨fun T w _ => lane_substitute T w, substitute_identityTable, fun x _ => lane_bswap32 x⟩

/-- Settles O31: aging maps every entry of `A` through `B`. -/
theorem agingComposes : Obligations.AgingComposes :=
  fun A B => ⟨entry_age A B, isPermutation_age⟩

end Sys2Proof.Machine
end

section
/-! SUPPORT. What the statements of 43_keystream.md need of `ENCRYPT_BLOCK`: its issue check, what a block's keystream
depends on, and a stream of blocks cut at either end. -/

namespace Sys2Proof.Machine

theorem encode_encryptBlock : encode .encryptBlock = 0x00000020 := by decide

/-- R201: without the key or one of the tables the check raises `E_NOT_READY`. -/
theorem checkEncryptBlock_notReady {c : CoreState}
    (h : ¬ (c.keyV = true ∧ c.t1V = true ∧ c.t2V = true ∧ c.t3V = true)) :
    checkEncryptBlock c = some .notReady := by
  have hne : checkEncryptBlock c ≠ none := fun hnone => h (checkEncryptBlock_eq_none.mp hnone)
  rw [checkEncryptBlock] at hne ⊢
  exact if_neg fun hready => hne (if_pos hready)

/-- A block's keystream and next key register are functions of the session (R211). -/
theorem SameSession.blockOutput_eq {c d : CoreState} (h : SameSession c d) : blockOutput c = blockOutput d := by
  simp only [blockOutput, counterBlock, CoreState.ctrHi, h.ctrLo, h.kr, h.rounds]

theorem SameSession.keystreamWords_eq {c d : CoreState} (h : SameSession c d) :
    keystreamWords c = keystreamWords d := by
  rw [keystreamWords, keystreamWords, h.blockOutput_eq, h.t1]

/-- The next session is a function of the session: neither the plaintext nor the rest of the core enters it (R211). -/
theorem SameSession.encryptOne {c d : CoreState} (h : SameSession c d) (p q : Word × Word) :
    SameSession (encryptOne c p) (encryptOne d q) := by
  simp only [Machine.encryptOne, performEncryptBlock_eq]
  constructor <;> simp only [h.rounds, h.blockOutput_eq, h.ctrLo, h.fastEpoch, h.slowEpoch, h.t1, h.t2, h.t3]

/-- A block's ciphertext is its plaintext under the keystream (R206). -/
theorem encryptStream_cons (c : CoreState) (p : Word × Word) (rest : List (Word × Word)) :
    encryptStream c (p :: rest) = xorBlock (keystreamWords c) p :: encryptStream (encryptOne c p) rest := by
  simp only [encryptStream, encryptOne, performEncryptBlock_dout0, performEncryptBlock_dout1, xorBlock]

theorem afterBlocks_concat (c : CoreState) (ps : List (Word × Word)) (p : Word × Word) :
    afterBlocks c (ps ++ [p]) = encryptOne (afterBlocks c ps) p :=
  List.foldl_concat ..

end Sys2Proof.Machine
end

section
/-! SUPPORT. Proofs of the statements of 43_keystream.md: `ENCRYPT_BLOCK` and its keystream. -/

namespace Sys2Proof.Machine

/-- Settles O19: `READY` decides the issue, and the perform is one record whose primitive's result is the given one. -/
theorem encryptBlockCommand : Obligations.EncryptBlockCommand := by
  refine fun s => ⟨encode_encryptBlock, fun hl hn hnot => ?_, fun hl hn hready => ?_,
    fun l W0 W1 KRn hl hprim => ?_⟩
  · rw [exec_records hl hn (by rw [issueOf, checkEncryptBlock_notReady hnot]), encode_encryptBlock]
  · rw [exec_latches hl hn (by rw [issueOf, checkEncryptBlock_eq_none.mpr hready]), encode_encryptBlock]
  · have hout : blockOutput s.core = ((W0, W1), KRn) := hprim
    rw [exec_latched _ hl, performOf, performEncryptBlock_eq, keystreamWords, hout]
    rfl

/-- Settles O35: both performs are the same record but for `DOUT`, which is the same keystream under either
plaintext. -/
theorem keystreamIgnoresThePlaintext : Obligations.KeystreamIgnoresThePlaintext := by
  intro s t u d e ht hu
  rw [exec_latched _ rfl, performOf, performEncryptBlock_eq] at ht hu
  cases ht
  cases hu
  exact ⟨rfl, (xor_cancel_right ..).trans (xor_cancel_right ..).symm,
    (xor_cancel_right ..).trans (xor_cancel_right ..).symm⟩

/-- Settles O36, by induction on the blocks: like sessions give one keystream and like next sessions. -/
theorem equalSessionsGiveEqualStreams : Obligations.EqualSessionsGiveEqualStreams := by
  intro c d ps h
  induction ps generalizing c d with
  | nil => exact ⟨rfl, h⟩
  | cons p rest ih =>
    obtain ⟨hstream, hafter⟩ := ih (encryptOne c p) (encryptOne d p) (h.encryptOne p p)
    exact ⟨by rw [encryptStream_cons, encryptStream_cons, h.keystreamWords_eq, hstream], hafter⟩

/-- Settles O37, by induction on the blocks: each ciphertext block meets the pad it was made with. -/
theorem decryptionIsTheSameCommand : Obligations.DecryptionIsTheSameCommand := by
  intro c d ps h
  induction ps generalizing c d with
  | nil => rfl
  | cons p rest ih =>
    rw [encryptStream_cons, encryptStream_cons, h.keystreamWords_eq, xorBlock_xorBlock_self,
      ih _ _ (h.encryptOne _ _)]

/-- Settles O38, by induction on the two lists: each pair of blocks meets one pad. -/
theorem twoTimePad : Obligations.TwoTimePad := by
  intro c d ps qs h hlen
  induction ps generalizing c d qs with
  | nil => rfl
  | cons p ps ih =>
    cases qs with
    | nil => cases hlen
    | cons q qs =>
      rw [encryptStream_cons, encryptStream_cons, List.zipWith_cons_cons, List.zipWith_cons_cons,
        h.keystreamWords_eq, xorBlock_common_pad, ih _ _ _ (h.encryptOne _ _) (Nat.succ.inj hlen)]

end Sys2Proof.Machine
end

section
/-! SUPPORT. What the statements of 43_keystream.md need of the epochs: when a block wraps one, and what a fresh session
holds after a number of blocks. -/

namespace Sys2Proof.Machine

/-- An epoch wraps when the block count it holds reaches its period (R208). -/
theorem epoch_succ_eq_period_iff {e p : Word} (hp : 0 < p.toNat) : e + 1 = p ↔ e.toNat + 1 = p.toNat := by
  bv_omega

section
variable (c : CoreState) (p : Word × Word)

theorem encryptOne_fastEpoch (h : c.fastEpoch.toNat < 2000) :
    (encryptOne c p).fastEpoch.toNat = (c.fastEpoch.toNat + 1) % 2000 := by
  rw [encryptOne, performEncryptBlock_fastEpoch]
  exact epochAfter_toNat (p := 2000) h

theorem encryptOne_slowEpoch (h : c.slowEpoch.toNat < 4000000) :
    (encryptOne c p).slowEpoch.toNat = (c.slowEpoch.toNat + 1) % 4000000 := by
  rw [encryptOne, performEncryptBlock_slowEpoch]
  exact epochAfter_toNat (p := 4000000) h

theorem encryptOne_t1 :
    (encryptOne c p).t1 = if c.fastEpoch.toNat + 1 = 2000 then age c.t1 c.t2 else c.t1 := by
  rw [encryptOne, performEncryptBlock_t1]
  exact if_congr (epoch_succ_eq_period_iff (by decide)) rfl rfl

theorem encryptOne_t2 :
    (encryptOne c p).t2 = if c.slowEpoch.toNat + 1 = 4000000 then age c.t2 c.t3 else c.t2 := by
  rw [encryptOne, performEncryptBlock_t2]
  exact if_congr (epoch_succ_eq_period_iff (by decide)) rfl rfl

@[simp] theorem encryptOne_t3 : (encryptOne c p).t3 = c.t3 :=
  performEncryptBlock_t3 _ c

/-- The block in which both epochs wrap (R208): both agings read the tables from before it. -/
theorem encryptOne_wraps_both (hfast : c.fastEpoch.toNat + 1 = 2000) (hslow : c.slowEpoch.toNat + 1 = 4000000) :
    (encryptOne c p).fastEpoch = 0 ∧ (encryptOne c p).slowEpoch = 0 ∧
      (encryptOne c p).t1 = age c.t1 c.t2 ∧ (encryptOne c p).t2 = age c.t2 c.t3 ∧ (encryptOne c p).t3 = c.t3 := by
  refine ⟨BitVec.eq_of_toNat_eq ?_, BitVec.eq_of_toNat_eq ?_, ?_, ?_, encryptOne_t3 c p⟩
  · rw [encryptOne_fastEpoch c p (by omega), hfast]
    rfl
  · rw [encryptOne_slowEpoch c p (by omega), hslow]
    rfl
  · rw [encryptOne_t1, if_pos hfast]
  · rw [encryptOne_t2, if_pos hslow]

end

/-- `T1` of a fresh session ages once more in every block that fills a fast period (R208, R215). -/
theorem ageTimes_div_succ (T B : Bytes256) (b : Nat) :
    ageTimes T B ((b + 1) / 2000)
      = if b % 2000 + 1 = 2000 then age (ageTimes T B (b / 2000)) B else ageTimes T B (b / 2000) := by
  split_ifs with hwrap
  · have hdiv : (b + 1) / 2000 = b / 2000 + 1 := by omega
    rw [hdiv, ageTimes]
  · have hdiv : (b + 1) / 2000 = b / 2000 := by omega
    rw [hdiv]

/-- What core `d` holds `b` blocks after core `c` with zero epochs, before the slow period is full (R215). -/
structure AgedSince (c : CoreState) (b : Nat) (d : CoreState) : Prop where
  t1 : d.t1 = ageTimes c.t1 c.t2 (b / 2000)
  t2 : d.t2 = c.t2
  t3 : d.t3 = c.t3
  fastEpoch : d.fastEpoch.toNat = b % 2000
  slowEpoch : d.slowEpoch.toNat = b

namespace AgedSince

theorem start {c : CoreState} (hfast : c.fastEpoch = 0) (hslow : c.slowEpoch = 0) : AgedSince c 0 c where
  t1 := rfl
  t2 := rfl
  t3 := rfl
  fastEpoch := by rw [hfast]; rfl
  slowEpoch := by rw [hslow]; rfl

variable {c d : CoreState} {b : Nat}

theorem encryptOne_t1 (h : AgedSince c b d) (p : Word × Word) :
    (encryptOne d p).t1 = ageTimes c.t1 c.t2 ((b + 1) / 2000) := by
  rw [Machine.encryptOne_t1, h.fastEpoch, h.t1, h.t2, ageTimes_div_succ]

/-- One more block, as long as it does not fill the slow period. -/
theorem encryptOne (h : AgedSince c b d) (hb : b + 1 < 4000000) (p : Word × Word) :
    AgedSince c (b + 1) (encryptOne d p) where
  t1 := h.encryptOne_t1 p
  t2 := by rw [encryptOne_t2, h.slowEpoch, if_neg (by omega), h.t2]
  t3 := by rw [encryptOne_t3, h.t3]
  fastEpoch := by rw [encryptOne_fastEpoch d p (by rw [h.fastEpoch]; omega), h.fastEpoch]; omega
  slowEpoch := by rw [encryptOne_slowEpoch d p (by rw [h.slowEpoch]; omega), h.slowEpoch]; omega

theorem afterBlocks (hfast : c.fastEpoch = 0) (hslow : c.slowEpoch = 0) {ps : List (Word × Word)}
    (hlen : ps.length < 4000000) : AgedSince c ps.length (afterBlocks c ps) := by
  induction ps using List.reverseRecOn with
  | nil => exact start hfast hslow
  | append_singleton ps p ih =>
    rw [List.length_append, List.length_singleton] at hlen ⊢
    rw [afterBlocks_concat]
    exact (ih (by omega)).encryptOne hlen p

end AgedSince

end Sys2Proof.Machine
end

section
/-! SUPPORT. Proofs of the statements of 43_keystream.md: the epochs and the aging boundaries. -/

namespace Sys2Proof.Machine

/-- Settles O32: the invariant's epoch clause makes `FAST_EPOCH` wrap in the same block. -/
theorem bothAgingsInOneBlock : Obligations.BothAgingsInOneBlock := by
  intro c p hc hslow
  have hfast : c.fastEpoch.toNat + 1 = 2000 := by
    have hagree := hc.epochsAgree
    omega
  exact encryptOne_wraps_both c p hfast hslow

/-- Settles O33: the last of 4,000,000 blocks comes after 3,999,999 blocks of which none fills the slow period. -/
theorem agingBoundaries : Obligations.AgingBoundaries := by
  refine fun c ps hfast hslow => ⟨fun hlen => ?_, fun hlen => ?_⟩
  · obtain ⟨h1, h2, h3, hf, hs⟩ := AgedSince.afterBlocks hfast hslow hlen
    exact ⟨h1, h2, h3, hf, hs⟩
  · have hne : ps ≠ [] := List.ne_nil_of_length_pos (by omega)
    obtain ⟨init, last, rfl⟩ := (List.eq_nil_or_concat' ps).resolve_left hne
    have hinit : init.length = 3999999 := by
      rw [List.length_append, List.length_singleton] at hlen
      omega
    have h : AgedSince c 3999999 (afterBlocks c init) := hinit ▸ AgedSince.afterBlocks hfast hslow (by omega)
    obtain ⟨hf, hs, -, h2, h3⟩ := encryptOne_wraps_both (afterBlocks c init) last
      (by rw [h.fastEpoch]) (by rw [h.slowEpoch])
    rw [afterBlocks_concat]
    exact ⟨h.encryptOne_t1 last, by rw [h2, h.t2, h.t3], by rw [h3, h.t3], hf, hs⟩

end Sys2Proof.Machine
end

section
/-! SUPPORT. What the statements of 44_control.md need: the words of the three commands, the issue of the two that are
exempt from the error block, and a `CMD` write while a command is in flight. -/

namespace Sys2Proof

theorem encode_nop : encode .nop = 0x00000000 := by decide

theorem encode_softReset : encode .softReset = 0x00000001 := by decide

theorem encode_clearErr : encode .clearErr = 0x00000002 := by decide

end Sys2Proof

namespace Sys2Proof.Machine

/-- A command with no issue check and no error block (R255) is latched whatever the error record and the phase. -/
theorem exec_latches_exempt {s : State} {i : Instr} (hl : s.core.latch = none)
    (hissue : issueOf i s.core = s.core.issueChecked (encode i) none) :
    exec i s = .next { s with core := { s.core with latch := some ⟨encode i, s.core.din⟩ } } := by
  rw [exec_idle i hl, hissue, issueChecked_none, CoreState.latchCommand]

/-- The issue of a command behind the error block is discarded while `ERR` = 1 (R255). -/
theorem exec_discards {s : State} {i : Instr} {check : Option ErrorCode} (hl : s.core.latch = none)
    (hn : s.core.error ≠ none) (hissue : issueOf i s.core = s.core.issueUnlessError (encode i) check) :
    exec i s = .next s := by
  obtain ⟨e, he⟩ := Option.ne_none_iff_exists'.mp hn
  rw [exec_idle i hl, hissue, issueUnlessError_error he]

/-- A `CMD` write while `BUSY` = 1 leaves an error record: the one that stood, else `E_BUSY` (R258). -/
theorem issueWhileBusy_eq (c : CoreState) (w : Word) :
    c.issueWhileBusy w = { c with error := some (c.error.getD ⟨.busy, w⟩) } := by
  obtain ⟨_, _ | _, _⟩ := c
  · rfl
  · rfl

/-- The same as a step: the word written is dropped, whatever it is. -/
theorem step_issues_busy {s : State} {l : Latch} {w : Word} {rest : List Event} (he : Issues s w rest)
    (hl : s.core.latch = some l) :
    step s = .next { s.withEvents rest with
      core := { s.core with error := some (s.core.error.getD ⟨.busy, w⟩) } } := by
  rw [step_issues he, issue_busy (s := s.withEvents rest) hl, issueWhileBusy_eq, State.withEvents_core]

end Sys2Proof.Machine
end

section
/-! SUPPORT. Proofs of the statements of 44_control.md. -/

namespace Sys2Proof.Machine

/-- Settles O20: behind the error block `NOP` has no check, and its perform is the fall of `BUSY` alone. -/
theorem nopCommand : Obligations.NopCommand := by
  refine fun s => ⟨encode_nop, fun hl hn => ?_, fun hl hn => exec_discards hl hn rfl, fun l hl => exec_latched _ hl⟩
  rw [exec_latches hl hn rfl, encode_nop]

/-- Settles O21: the issue has no check and no error block, and the reset core that the perform puts has an empty
latch. -/
theorem softResetCommand : Obligations.SoftResetCommand := by
  refine fun s => ⟨encode_softReset, fun hl => ?_, fun l rest hl he => step_issues_busy he hl,
    fun l hl => exec_latched _ hl⟩
  rw [exec_latches_exempt hl rfl, encode_softReset]

/-- Settles O22: the issue has no check and no error block, and the perform empties the error record, from which
`ERR`, `ERRCODE` and `ERRCMD` are read. -/
theorem clearErrCommand : Obligations.ClearErrCommand := by
  refine fun s => ⟨encode_clearErr, fun hl => ?_, fun l rest hl he => step_issues_busy he hl,
    fun l hl => ⟨_, exec_latched _ hl, rfl, rfl, rfl, rfl⟩⟩
  rw [exec_latches_exempt hl rfl, encode_clearErr]

end Sys2Proof.Machine
end

section
/-! SUPPORT. What the statements of 60_exceptions.md need: the code a `CMD` write raises while no error is recorded,
what the error block discards, and the perform of a command in flight under another error record. -/

namespace Sys2Proof.Machine

/-- The issue checks of each command, apart from the error block and `E_BUSY` (R130 to R133, R152, R201). -/
def checkOf (i : Instr) (c : CoreState) : Option ErrorCode :=
  match i with
  | .nop | .softReset | .clearErr => none
  | .setRounds n => checkSetRounds n c
  | .loadKey => checkLoadKey c
  | .loadSeed w => checkLoadSeed w c
  | .permGen t len => checkPermGen t len c
  | .encryptBlock => checkEncryptBlock c

/-- The code that a `CMD` write of `w` raises while no error is recorded, if it raises one (R256). -/
def raisedCode (c : CoreState) (w : Word) : Option ErrorCode :=
  match c.latch, decode w with
  | some _, _ => some .busy
  | none, none => some .illegal
  | none, some i => checkOf i c

theorem raisedCode_busy {c : CoreState} (hl : c.latch ≠ none) (w : Word) : raisedCode c w = some .busy := by
  obtain ⟨l, hl⟩ := Option.ne_none_iff_exists'.mp hl
  simp [raisedCode, hl]

theorem raisedCode_illegal {c : CoreState} {w : Word} (hl : c.latch = none) (hd : decode w = none) :
    raisedCode c w = some .illegal := by
  simp [raisedCode, hl, hd]

theorem raisedCode_command {c : CoreState} {w : Word} {i : Instr} (hl : c.latch = none) (hd : decode w = some i) :
    raisedCode c w = checkOf i c := by
  simp [raisedCode, hl, hd]

/-- With no error recorded a command's checks alone decide its issue. -/
theorem issueOf_clear {c : CoreState} (hn : c.error = none) (i : Instr) :
    issueOf i c = c.issueChecked (encode i) (checkOf i c) := by
  cases i with
  | softReset => rfl
  | clearErr => rfl
  | _ => exact issueUnlessError_clear hn _ _

/-- All commands but two are behind the error block (R255). -/
theorem issueOf_notExempt {i : Instr} (hsoft : i ≠ .softReset) (hclear : i ≠ .clearErr) (c : CoreState) :
    issueOf i c = c.issueUnlessError (encode i) (checkOf i c) := by
  cases i with
  | softReset => exact absurd rfl hsoft
  | clearErr => exact absurd rfl hclear
  | _ => rfl

/-- A `CMD` write while no error is recorded: the code it raises is recorded with the word, or the word is latched. -/
theorem step_issues_clear {s : State} {w : Word} {rest : List Event} (he : Issues s w rest)
    (hn : s.core.error = none) :
    step s = .next { s.withEvents rest with core := s.core.issueChecked w (raisedCode s.core w) } := by
  cases hl : s.core.latch with
  | some l => rw [step_issues_busy he hl, hn, raisedCode_busy (by simp [hl])]; rfl
  | none =>
    cases hd : decode w with
    | none => rw [step_issues_illegal he hl hd, issueIllegal_clear hn, raisedCode_illegal hl hd, issueChecked_some]
    | some i =>
      rw [step_issues_command he hl hd, exec_idle i (s := s.withEvents rest) hl, State.withEvents_core,
        issueOf_clear hn, encode_of_decode hd, raisedCode_command hl hd]

/-- A `CMD` write while an error is recorded changes nothing, whatever the word: it is dropped when a command is in
flight (R258), and discarded otherwise unless it is one of the two exempt words (R255). -/
theorem step_issues_discarded {s : State} {w : Word} {rest : List Event} (he : Issues s w rest)
    (hn : s.core.error ≠ none)
    (hw : ¬ (s.core.latch = none ∧ (w = encode .softReset ∨ w = encode .clearErr))) :
    step s = .next (s.withEvents rest) := by
  cases hl : s.core.latch with
  | some l =>
    obtain ⟨e, hn⟩ := Option.ne_none_iff_exists'.mp hn
    rw [step_issues_busy he hl, hn, Option.getD_some, ← hn]
    rfl
  | none =>
    cases hd : decode w with
    | none => rw [step_issues_illegal he hl hd, issueIllegal_error hn]; rfl
    | some i =>
      obtain ⟨hsoft, hclear⟩ := not_or.mp fun hexempt => hw ⟨hl, hexempt⟩
      rw [← encode_of_decode hd] at hsoft hclear
      rw [step_issues_command he hl hd]
      exact exec_discards (s := s.withEvents rest) hl hn
        (issueOf_notExempt (ne_of_apply_ne encode hsoft) (ne_of_apply_ne encode hclear) s.core)

/-- The two exempt words are latched whatever the error record, when nothing is in flight (R255). -/
theorem step_issues_exempt {s : State} {w : Word} {rest : List Event} (he : Issues s w rest)
    (hl : s.core.latch = none) (hw : w = encode .softReset ∨ w = encode .clearErr) :
    step s = .next { s.withEvents rest with core := s.core.latchCommand w } := by
  rcases hw with rfl | rfl
  · exact (step_issues_command he hl (i := .softReset) (by decide)).trans
      (exec_latches_exempt (s := s.withEvents rest) hl rfl)
  · exact (step_issues_command he hl (i := .clearErr) (by decide)).trans
      (exec_latches_exempt (s := s.withEvents rest) hl rfl)

/-- A check behind the lock fails on the lock or on the argument (R130). -/
theorem lockedOr_eq_some {c : CoreState} {argument : Option ErrorCode} {code : ErrorCode}
    (h : lockedOr c argument = some code) : code = .locked ∨ argument = some code := by
  rw [lockedOr] at h
  split_ifs at h
  · cases h
    exact .inl rfl
  · exact .inr h

/-- A command's own checks raise only the codes of its row of R253, and never `E_BUSY`. -/
theorem checkOf_codes {i : Instr} {c : CoreState} {code : ErrorCode} (h : checkOf i c = some code) :
    code ∈ codesOf i ∧ code ≠ .busy := by
  cases i with
  | nop | softReset | clearErr => cases h
  | loadKey =>
    obtain rfl | h := lockedOr_eq_some h
    · simp [codesOf]
    · cases h
  | setRounds | loadSeed | permGen =>
    simp only [checkOf, checkSetRounds, checkLoadSeed, checkPermGen] at h
    obtain rfl | h := lockedOr_eq_some h
    · simp [codesOf]
    · split_ifs at h <;> cases h <;> simp [codesOf]
  | encryptBlock =>
    rw [checkOf, checkEncryptBlock] at h
    split_ifs at h
    cases h
    simp [codesOf]

/-- A `CMD` write that records an error where there was none records the raised code with the written word, and nothing
else changes (R254). -/
theorem step_issues_recorded {s t : State} {w : Word} {rest : List Event} (he : Issues s w rest)
    (hn : s.core.error = none) (h : step s = .next t) (ht : t.core.error ≠ none) :
    ∃ code, raisedCode s.core w = some code ∧ t = { s.withEvents rest with core := s.core.record code w } := by
  rw [step_issues_clear he hn] at h
  cases h
  cases hcode : raisedCode s.core w with
  | none => rw [hcode] at ht; exact absurd hn ht
  | some code => exact ⟨code, rfl, by rw [issueChecked_some]⟩

theorem busy_mem_codesOf (i : Instr) : .busy ∈ codesOf i := by
  cases i <;> simp [codesOf]

/-- R253: what the raised code says of the core and the word. -/
theorem raisedCode_codes {c : CoreState} {w : Word} {code : ErrorCode} (h : raisedCode c w = some code) :
    (code = .busy ↔ c.latch ≠ none) ∧ (decode w = none → code = .busy ∨ code = .illegal) ∧
      (∀ i, decode w = some i → code ∈ codesOf i) := by
  by_cases hl : c.latch = none
  · cases hd : decode w with
    | none =>
      rw [raisedCode_illegal hl hd] at h
      cases h
      simp [hl]
    | some i =>
      rw [raisedCode_command hl hd] at h
      obtain ⟨hmem, hne⟩ := checkOf_codes h
      simp [hl, hmem, hne]
  · rw [raisedCode_busy hl] at h
    cases h
    simp [hl, busy_mem_codesOf]

/-- A perform neither reads the error record nor writes it, but for the two commands that clear it (R258, R269). -/
theorem performOf_withError (i : Instr) (l : Latch) (c : CoreState) (e : Option ErrorRecord) :
    performOf i l { c with error := e } =
      { performOf i l c with error := if i = .clearErr ∨ i = .softReset then none else e } := by
  cases i with
  | permGen t len =>
    simp only [performOf, performPermGen]
    cases tableSel t with
    | none => rfl
    | some sel => cases sel <;> rfl
  | encryptBlock => simp only [performOf, performEncryptBlock_eq]; rfl
  | _ => rfl

end Sys2Proof.Machine
end

section
/-! SUPPORT. What the statements of 60_exceptions.md need: the rule of R256 on raw fields, in the cases of the latch,
the error record and the decoded command. -/

namespace Sys2Proof.Machine

/-- A failing check comes before the rest of the checks. -/
theorem issueChecked_ite (c : CoreState) (w : Word) (p : Prop) [Decidable p] (code : ErrorCode)
    (check : Option ErrorCode) :
    c.issueChecked w (if p then some code else check) = if p then c.record code w else c.issueChecked w check := by
  split_ifs <;> rfl

/-- The checks of R256 on the raw fields of a legal word, with no error recorded and nothing in flight, are those of the
command it decodes to, in the same order. -/
theorem issueByTheRule_command {c : CoreState} {w : Word} {i : Instr} (hl : c.latch = none) (hn : c.error = none)
    (hd : decode w = some i) : issueByTheRule c w = c.issueChecked w (checkOf i c) := by
  obtain ⟨hop, ha, hb, -⟩ := fields_of_decode hd
  simp only [issueByTheRule, CoreState.busy, CoreState.err, hl, hn, legalWord_iff.mpr ⟨i, hd⟩, hop, ha, hb]
  cases i with
  | nop | softReset | clearErr => simp [Instr.opcode, checkOf]
  | setRounds n =>
    simp [Instr.opcode, Instr.fieldA, checkOf, checkSetRounds, lockedOr, issueChecked_ite, Config.roundsMin,
      Config.roundsMax]
  | loadKey => simp [Instr.opcode, checkOf, checkLoadKey, lockedOr, issueChecked_ite]
  | loadSeed index => simp [Instr.opcode, Instr.fieldA, checkOf, checkLoadSeed, lockedOr, issueChecked_ite]
  | permGen t len =>
    simp [Instr.opcode, Instr.fieldA, Instr.fieldB, checkOf, checkPermGen, lockedOr, issueChecked_ite,
      tableSel_eq_none, Config.seedLenMin, Config.seedLenMax, and_assoc]
  | encryptBlock => cases hready : c.ready <;> simp [Instr.opcode, checkOf, checkEncryptBlock, hready]

/-- With no error recorded the rule records the raised code, or latches the word. -/
theorem issueByTheRule_clear {c : CoreState} (hn : c.error = none) (w : Word) :
    issueByTheRule c w = c.issueChecked w (raisedCode c w) := by
  cases hl : c.latch with
  | some l => simp [issueByTheRule, CoreState.busy, CoreState.err, raisedCode, hl, hn]
  | none =>
    cases hd : decode w with
    | none =>
      rw [raisedCode_illegal hl hd]
      simp [issueByTheRule, CoreState.busy, CoreState.err, hl, hn, decode_eq_none_iff_legalWord.mp hd]
    | some i => rw [raisedCode_command hl hd, issueByTheRule_command hl hn hd]

/-- The rule's error block lets the two exempt words alone through, and only with nothing in flight. -/
theorem issueByTheRule_discarded {c : CoreState} {w : Word} (hn : c.error ≠ none)
    (hw : ¬ (c.latch = none ∧ (w = encode .softReset ∨ w = encode .clearErr))) : issueByTheRule c w = c := by
  simp only [issueByTheRule, CoreState.busy, CoreState.err, Option.isSome_iff_ne_none.mpr hn]
  cases hl : c.latch with
  | some l => rfl
  | none =>
    have hblocked : (w == 0x00000002 || w == 0x00000001) = false := by
      rw [encode_softReset, encode_clearErr] at hw
      simpa [hl, not_or, and_comm] using hw
    rw [hblocked]
    rfl

/-- The two exempt words pass every check of the rule. -/
theorem issueByTheRule_exempt {c : CoreState} {w : Word} (hl : c.latch = none)
    (hw : w = encode .softReset ∨ w = encode .clearErr) : issueByTheRule c w = c.latchCommand w := by
  have hop : opField 1#32 = 0x01 ∧ opField 2#32 = 0x02 := by decide
  have hlegal : legalWord 1#32 = true ∧ legalWord 2#32 = true := by decide
  rw [encode_softReset, encode_clearErr] at hw
  rcases hw with rfl | rfl <;> simp [issueByTheRule, CoreState.busy, hl, hop, hlegal]

end Sys2Proof.Machine
end

section
/-! SUPPORT. What the statements of 60_exceptions.md need: which events give a step, and which are refused. -/

namespace Sys2Proof.Machine

/-- Under the invariant the latch never holds a word that is no command, so the core's turn does not fault (R256). -/
theorem coreTurn_next {s : State} (hs : s.core.Inv) : ∃ t, s.coreTurn = .next t := by
  cases hl : s.core.latch with
  | none => exact ⟨_, coreTurn_idle hl⟩
  | some l =>
    obtain ⟨i, hd, -⟩ := hs.latched l hl
    exact ⟨_, (coreTurn_latched hl hd).trans (exec_latched i hl)⟩

/-- Every bus write answers: `CMD` issues, an operand register stores, and every other place ignores it. -/
theorem busWrite_next (s : State) (a : BitVec 12) (v : Word) : ∃ t, s.busWrite a v = .next t := by
  cases hloc : locate a with
  | cmd =>
    obtain ⟨c, hc, -⟩ := issue_cases s v
    exact ⟨_, by simpa only [State.busWrite, hloc] using hc⟩
  | din k => exact ⟨_, busWrite_din s hloc v⟩
  | _ => exact ⟨s, busWrite_ignored s (by simp [hloc]) (by simp [hloc]) v⟩

/-- An access inside the contract answers (R303). -/
theorem takeAccess_next (s : State) {a : Access} (ha : a.outside = none) : ∃ t, s.takeAccess a = .next t := by
  rw [State.takeAccess, ha]
  cases a.kind with
  | write => exact busWrite_next s a.addr a.data
  | _ => exact ⟨_, rfl⟩

/-- Under the invariant an event inside the contract answers. -/
theorem takeEvent_next {s : State} (hs : s.core.Inv) {e : Event} (he : e.inContract = true) :
    ∃ t, s.takeEvent e = .next t := by
  cases e with
  | access a => exact takeAccess_next s (by simpa [Event.inContract] using he)
  | rst during =>
    cases during with
    | none => exact ⟨_, takeEvent_rst s⟩
    | some a => cases he
  | perform => exact coreTurn_next hs

/-- An event outside the contract is refused, which is no fault (R73, R282, R301). -/
theorem takeEvent_refused (s : State) {e : Event} (he : e.inContract = false) :
    ∃ r, s.takeEvent e = .refused r := by
  cases e with
  | access a =>
    cases hr : a.outside with
    | none => rw [Event.inContract, hr] at he; cases he
    | some r => exact ⟨r, by rw [State.takeEvent, State.takeAccess, hr]⟩
  | rst during =>
    cases during with
    | none => cases he
    | some a => exact ⟨_, takeEvent_rst_access s a⟩
  | perform => cases he

end Sys2Proof.Machine
end

section
/-! SUPPORT. Proofs of the statements of 60_exceptions.md. -/

namespace Sys2Proof.Machine

/-- Settles O9: with no error recorded the rule's chain and the model raise the same code; with one recorded both let
the two exempt words alone through. -/
theorem issueFollowsTheCheckOrder : Obligations.IssueFollowsTheCheckOrder := by
  intro s w rest he
  by_cases hn : s.core.error = none
  · rw [step_issues_clear he hn, issueByTheRule_clear hn]
  · by_cases hw : s.core.latch = none ∧ (w = encode .softReset ∨ w = encode .clearErr)
    · rw [step_issues_exempt he hw.1 hw.2, issueByTheRule_exempt hw.1 hw.2]
    · rw [step_issues_discarded he hn hw, issueByTheRule_discarded hn hw]
      rfl

/-- Settles O10: the recorded error is the raised code with the written word. -/
theorem codesACommandCanRaise : Obligations.CodesACommandCanRaise := by
  intro s t w rest e he hn h ht
  obtain ⟨code, hcode, rfl⟩ := step_issues_recorded he hn h (by simp [ht])
  cases ht
  exact ⟨rfl, raisedCode_codes hcode⟩

/-- Settles O11: the two words are those of the exempt commands. -/
theorem errorBlock : Obligations.ErrorBlock := by
  intro s w rest e he hn
  rw [← encode_softReset, ← encode_clearErr]
  exact ⟨fun hsoft hclear => step_issues_discarded he (by simp [hn]) fun hw => hw.2.elim hsoft hclear,
    fun hw hl => step_issues_exempt he hl hw⟩

/-- Every code with its number is in the list of R251. -/
theorem errorCode_numbered (code : ErrorCode) :
    (code, code.bits) ∈ [(.illegal, 1), (.rounds, 2), (.seedLen, 3), (.arg, 4), (.locked, 5), (.notReady, 6),
      (.busy, 7)] := by
  cases code <;> decide

/-- Settles O12: a record made is `CoreState.record` of the raised code, from which the three registers are read, and of
what a `CMD` write can do nothing touches a record that stands. -/
theorem recordingAnError : Obligations.RecordingAnError := by
  refine fun s t w rest he h => ⟨fun hn ht => ?_, fun hn => ?_⟩
  · obtain ⟨code, -, rfl⟩ := step_issues_recorded he hn h ht
    exact ⟨code, code.bits, errorCode_numbered code, rfl, rfl, rfl, rfl⟩
  · obtain ⟨c, hc, hcase⟩ := issue_cases (s.withEvents rest) w
    rw [step_issues he, hc] at h
    cases h
    rcases hcase with ⟨rfl, -⟩ | ⟨hclear, -⟩ | ⟨-, i, -, rfl⟩
    · rfl
    · exact absurd hclear hn
    · rfl

/-- Settles O13: the write changes the error record alone, and the perform carries the record through or clears it. -/
theorem commandWriteWhileBusy : Obligations.CommandWriteWhileBusy := by
  intro s l i w rest hl hd he
  refine ⟨_, _, step_issues_busy he hl, rfl, step_performed hl hd rfl, ?_⟩
  refine Eq.trans (step_performed hl hd rfl) ?_
  simp only [performOf_withError]
  rfl

/-- Settles O59: an event inside the contract answers, one outside it is refused, and neither is a fault; with no event
left the core has its turn. -/
theorem contractStepsNeverStop : Obligations.ContractStepsNeverStop := by
  intro s hs
  cases he : s.env.events with
  | nil =>
    obtain ⟨t, ht⟩ := coreTurn_next hs
    rw [step_no_events he, ht]
    exact ⟨fun _ => ⟨t, rfl⟩, nofun⟩
  | cons e rest =>
    rw [step_event he]
    cases hc : e.inContract with
    | true =>
      obtain ⟨t, ht⟩ := takeEvent_next (s := s.withEvents rest) hs hc
      rw [ht]
      exact ⟨fun _ => ⟨t, rfl⟩, nofun⟩
    | false =>
      obtain ⟨r, hr⟩ := takeEvent_refused (s.withEvents rest) hc
      rw [hr]
      exact ⟨fun hin => absurd (hc.symm.trans (hin e rest rfl)) nofun, nofun⟩

end Sys2Proof.Machine
end

section
/-! SUPPORT. What the statements of 70_reset_and_hazards.md need of the bus: the places that read exactly while a
command is in flight. -/

namespace Sys2Proof.Machine

/-- A host's read of a place that reads exactly notes the place's word, whatever is in flight. -/
theorem step_wordRead_exact {s : State} {a : BitVec 12} {rest : List Event} {loc : Location}
    (he : s.env.events = .access (wordRead a) :: rest) (ha : a.toNat % 4 = 0) (hloc : locate a = loc)
    (hexact : loc.exactWhileBusy = true) : step s = .next ((s.withEvents rest).note (s.core.readLocation loc)) := by
  subst hloc
  rw [step_wordRead he ha, busRead_exact _ hexact, State.withEvents_core]

/-- From `0x400` on every address lies in a table window (R78). -/
theorem exists_locate_table {a : BitVec 12} (h : 0x400 ≤ a.toNat) : ∃ sel i, locate a = .tableWindow sel i := by
  simp only [locate]
  rw [if_neg (by omega), if_neg (by omega), if_neg (by omega)]
  split_ifs
  · exact ⟨_, _, rfl⟩
  · exact ⟨_, _, rfl⟩
  · exact ⟨_, _, rfl⟩

/-- R292: an aligned address whose place reads exactly while `BUSY` = 1 is that of `CMD`, `STATUS`, `DIN` or `ID`, or a
reserved offset. -/
theorem exactWhileBusy_addresses {a : BitVec 12} (ha : a.toNat % 4 = 0) (h : (locate a).exactWhileBusy = true) :
    a ∈ [(0x000 : BitVec 12), 0x004, 0x010, 0x014, 0x018, 0x01C, 0x038] ∨
      a.toNat = 0x03C ∨ (0x050 ≤ a.toNat ∧ a.toNat ≤ 0x0FC) ∨ (0x200 ≤ a.toNat ∧ a.toNat ≤ 0x3FC) := by
  have low : ∀ n < 0x100, n % 4 = 0 → ((registerMap.lookup n).getD .reserved).exactWhileBusy = true →
      BitVec.ofNat 12 n ∈ [(0x000 : BitVec 12), 0x004, 0x010, 0x014, 0x018, 0x01C, 0x038] ∨
        n = 0x03C ∨ 0x050 ≤ n := by
    decide +kernel
  by_cases hlow : a.toNat < 0x100
  · rw [locate_low hlow] at h
    rcases low _ hlow ha h with hmem | hres
    · rw [BitVec.ofNat_toNat, BitVec.setWidth_eq] at hmem
      exact .inl hmem
    · exact .inr (by omega)
  by_cases hseed : a.toNat < 0x200
  · rw [locate_seed (w := (a.toNat - 0x100) / 4) (by omega) (by omega)] at h
    cases h
  by_cases hgap : a.toNat < 0x400
  · exact .inr (by omega)
  · obtain ⟨sel, i, hloc⟩ := exists_locate_table (Nat.le_of_not_lt hgap)
    rw [hloc] at h
    cases h

end Sys2Proof.Machine
end

section
/-! SUPPORT. Proofs of the statements of 70_reset_and_hazards.md. -/

namespace Sys2Proof.Machine

/-- Settles O47: each listed address names a place that reads exactly, and no other aligned address does, so that a
read there draws a free word. -/
theorem readsWhileBusy : Obligations.ReadsWhileBusy := by
  intro s a l rest ha hl he
  split_ifs with hcmd hstatus hdin0 hdin1 hdin2 hdin3 hid hres
  · exact step_wordRead_exact he ha (loc := .cmd) (hcmd ▸ rfl) rfl
  · exact step_wordRead_exact he ha (loc := .status) (hstatus ▸ rfl) rfl
  · exact step_wordRead_exact he ha (loc := .din 0) (hdin0 ▸ rfl) rfl
  · exact step_wordRead_exact he ha (loc := .din 1) (hdin1 ▸ rfl) rfl
  · exact step_wordRead_exact he ha (loc := .din 2) (hdin2 ▸ rfl) rfl
  · exact step_wordRead_exact he ha (loc := .din 3) (hdin3 ▸ rfl) rfl
  · exact step_wordRead_exact he ha (loc := .id) (hid ▸ rfl) rfl
  · exact step_wordRead_exact he ha (locate_reserved hres) rfl
  · have hfree : (locate a).exactWhileBusy = false := by
      refine Bool.eq_false_iff.mpr fun hexact => ?_
      rcases exactWhileBusy_addresses ha hexact with hmem | hres'
      · simp only [List.mem_cons, hcmd, hstatus, hdin0, hdin1, hdin2, hdin3, hid, List.not_mem_nil, or_self] at hmem
      · exact hres hres'
    rw [step_wordRead he ha, busRead_unspecified (s := s.withEvents rest) hl hfree, State.withEvents_draws]

/-- Settles O50: the `RST` edge puts the reset core as its event, and so does the perform of `SOFT_RESET` on either kind
of turn, since the reset core's latch is empty already. -/
theorem bothResetsAgree : Obligations.BothResetsAgree := by
  refine fun s rest => ⟨fun he => (step_event he).trans (takeEvent_rst _), fun hp => ?_⟩
  obtain ⟨hlast | ⟨rest', hperform⟩, l, hl, hd⟩ := hp
  · exact ⟨_, step_performed_last hl hd hlast, rfl⟩
  · exact ⟨_, step_performed hl hd hperform, rfl⟩

end Sys2Proof.Machine
end
